-- ==== Sys2Proof/Word.lean ====
section
/-! DEFINITION. The word types of the core (00_scope.md R8, R10): every value the spec gives a width is a bit vector of that width; counts, sizes and positions are natural numbers. -/

namespace Sys2Proof

/-- A byte is 8 bits (00_scope.md R10). -/
abbrev Byte := BitVec 8

/-- u16 of 00_scope.md R8. -/
abbrev U16 := BitVec 16

/-- u32 of 00_scope.md R8; arithmetic on it wraps. -/
abbrev U32 := BitVec 32

/-- u64 of 00_scope.md R8; arithmetic on it wraps. -/
abbrev U64 := BitVec 64

end Sys2Proof
end

