-- ==== Sys2Proof/Config.lean ====
section
/-! DEFINITION. The parameters of 00_scope.md R6 and the one free value. Parameters a model takes as an argument (R7) are not fixed here: ALLOC_MAY_FAIL is a field of State and the header capacities are fields of the header record. -/

namespace Sys2Proof.Config

/-- MAXBITS, the longest Huffman codeword (R6). -/
def maxBits : Nat := 15

/-- DMAX, the format's upper bound on a distance (R6). -/
def dMax : Nat := 32768

/-- FAST_MIN_IN, the input slack of the fast path (R6). -/
def fastMinIn : Nat := 6

/-- FAST_MIN_OUT, the output slack of the fast path (R6). -/
def fastMinOut : Nat := 258

/-- FAST_REFILL, the bits the fast path holds before a decode (R6). -/
def fastRefill : Nat := 15

/-- CODEBITS, LENBITS_DYN, DISTBITS_DYN, LENBITS_FIX, DISTBITS_FIX: requested root widths (R6). -/
def codeBits : Nat := 7
/-- LENBITS_DYN (R6). -/
def lenBitsDyn : Nat := 9
/-- DISTBITS_DYN (R6). -/
def distBitsDyn : Nat := 6
/-- LENBITS_FIX (R6). -/
def lenBitsFix : Nat := 9
/-- DISTBITS_FIX (R6). -/
def distBitsFix : Nat := 5

/-- ENOUGH_LENS (R6, R308): table entries the literal/length table never exceeds. -/
def enoughLens : Nat := 852
/-- ENOUGH_DISTS (R6, R308): table entries the distance table never exceeds. -/
def enoughDists : Nat := 592

/-- The default of NAME_MAX, COMMENT_MAX and EXTRA_MAX (R6, D14). -/
def headerMaxDefault : Nat := 65536

/-- The windowBits a reset input is configured with (70_reset_and_hazards.md R530: "treats it as INIT with a
configured windowBits"). DESIGN CHOICE (log 2), unsafe: the spec gives no number; 47 is auto-detection with a
32768-byte window (46_host.md R442). -/
def resetWindowBits : Int := 47

/-- FREE VALUE (log 6): whether the n-th window allocation fails, read only when `allocMayFail` is true
(45_window.md R402, D9: a nondeterministic draw). Safe: nothing can be proved of it. -/
opaque allocFails : Nat → Bool

end Sys2Proof.Config
end

