-- ==== Sys2Proof/Syntax.lean ====
section
/-! DEFINITION. The types that the stream and the host commands are written in, and `Instr`: one constructor per row of spec/opcode_table.json (00_scope.md R2, 30_encoding.md R111, R135). -/

namespace Sys2Proof

/-- `wrap` (10_state.md R31). -/
inductive Wrap where
  | none | zlib | gzip | auto
deriving DecidableEq, Repr

/-- `fmt`, the wrapper HEAD found (10_state.md R38). -/
inductive Fmt where
  | unknown | zlib | gzip
deriving DecidableEq, Repr

/-- The five flush modes (46_host.md R449). -/
inductive Flush where
  | noFlush | syncFlush | finish | block | trees
deriving DecidableEq, Repr

/-- The status codes (30_encoding.md R136, 46_host.md R446). -/
inductive Status where
  | ok | streamEnd | needDict | streamError | dataError | memError | bufError
deriving DecidableEq, Repr

/-- The 31 modes of 10_state.md R33; `copy_` and `len_` are COPY_ and LEN_, `matched` is MATCH. -/
inductive Mode where
  | head | flags | time | os | exlen | extra | name | comment | hcrc | dictid | dict
  | type | typedo | stored | copy_ | copy | table | lenlens | codelens
  | len_ | len | lenext | dist | distext | matched | lit
  | check | length | done | bad | mem
deriving DecidableEq, Repr

/-- `msg`: no error, or the data error E1..E18 (60_exceptions.md R481). -/
inductive Msg where
  | e0 | e1 | e2 | e3 | e4 | e5 | e6 | e7 | e8 | e9 | e10 | e11 | e12 | e13 | e14 | e15 | e16 | e17 | e18
deriving DecidableEq, Repr

/-- The gzip header record (10_state.md R48), with the capacities of its three buffers (46_host.md R440, R453;
log 7). `extra`, `name` and `comment` may be absent (41_wrapper.md R197, R199, R200 set them to none). -/
structure HeaderRecord where
  /-- 0 = not complete, 1 = gzip header complete, -1 = the stream is not gzip -/
  done : Int := 0
  text : Bool := false
  time : U32 := 0
  xflags : Byte := 0
  os : Byte := 0
  extraLen : U16 := 0
  extra : Option (List Byte) := none
  name : Option (List Byte) := none
  comment : Option (List Byte) := none
  hcrc : Bool := false
  /-- EXTRA_MAX -/
  extraMax : Nat := Config.headerMaxDefault
  /-- NAME_MAX -/
  nameMax : Nat := Config.headerMaxDefault
  /-- COMMENT_MAX -/
  commentMax : Nat := Config.headerMaxDefault
deriving DecidableEq, Repr

/-- A codeword `(L, c)`: the `len`-bit number `code`, its first stream bit the most significant
(43_huffman.md R303, R304). -/
structure Codeword where
  len : Nat
  code : Nat
deriving DecidableEq, Repr

/-- A host command record (30_encoding.md R135). `flush` is the numeric code of R136. -/
inductive Command where
  | init (windowBits : Int)
  | reset (keep : Bool)
  | inflate (input : List Byte) (availOut : Nat) (flush : Byte)
  | setDictionary (dict : List Byte)
  | getHeader (record : HeaderRecord)
  | teardown
deriving DecidableEq, Repr

/-- The instructions: one constructor per row of spec/opcode_table.json, in the table's order. Multi-byte fields
are given as the number they stand for (20_memory.md R87); `cw` is the codeword of a HUFF element and `x` its
extra bits; `data` is the run of bytes of a RAW or STRZ element that one execution takes (log 22). -/
inductive Instr where
  | zlibHeader (cmf flg : Byte)
  | zlibDictid (id : U32)
  | zlibAdler32 (v : U32)
  | gzipMagic
  | gzipCmFlg (cm flg : Byte)
  | gzipMtime (t : U32)
  | gzipXflOs (xfl os : Byte)
  | gzipXlen (n : U16)
  | gzipExtra (data : List Byte)
  | gzipName (data : List Byte)
  | gzipComment (data : List Byte)
  | gzipHcrc (crc : U16)
  | gzipCrc32 (v : U32)
  | gzipIsize (n : U32)
  | blockStored (final : Bool)
  | blockFixed (final : Bool)
  | blockDynamic (final : Bool)
  | blockReserved (final : Bool)
  | storedLenNlen (len nlen : U16)
  | storedData (data : List Byte)
  | dynCounts (hlit hdist : BitVec 5) (hclen : BitVec 4)
  | dynCllen (len : BitVec 3)
  | clLength (cw : Codeword) (len : BitVec 4)
  | clRepeatPrev (cw : Codeword) (r : BitVec 2)
  | clZeroShort (cw : Codeword) (r : BitVec 3)
  | clZeroLong (cw : Codeword) (r : BitVec 7)
  | literal (cw : Codeword) (v : Byte)
  | endOfBlock (cw : Codeword)
  | length257 (cw : Codeword)
  | length258 (cw : Codeword)
  | length259 (cw : Codeword)
  | length260 (cw : Codeword)
  | length261 (cw : Codeword)
  | length262 (cw : Codeword)
  | length263 (cw : Codeword)
  | length264 (cw : Codeword)
  | length265 (cw : Codeword) (x : BitVec 1)
  | length266 (cw : Codeword) (x : BitVec 1)
  | length267 (cw : Codeword) (x : BitVec 1)
  | length268 (cw : Codeword) (x : BitVec 1)
  | length269 (cw : Codeword) (x : BitVec 2)
  | length270 (cw : Codeword) (x : BitVec 2)
  | length271 (cw : Codeword) (x : BitVec 2)
  | length272 (cw : Codeword) (x : BitVec 2)
  | length273 (cw : Codeword) (x : BitVec 3)
  | length274 (cw : Codeword) (x : BitVec 3)
  | length275 (cw : Codeword) (x : BitVec 3)
  | length276 (cw : Codeword) (x : BitVec 3)
  | length277 (cw : Codeword) (x : BitVec 4)
  | length278 (cw : Codeword) (x : BitVec 4)
  | length279 (cw : Codeword) (x : BitVec 4)
  | length280 (cw : Codeword) (x : BitVec 4)
  | length281 (cw : Codeword) (x : BitVec 5)
  | length282 (cw : Codeword) (x : BitVec 5)
  | length283 (cw : Codeword) (x : BitVec 5)
  | length284 (cw : Codeword) (x : BitVec 5)
  | length285 (cw : Codeword)
  | llInvalid (cw : Codeword)
  | distance0 (cw : Codeword)
  | distance1 (cw : Codeword)
  | distance2 (cw : Codeword)
  | distance3 (cw : Codeword)
  | distance4 (cw : Codeword) (x : BitVec 1)
  | distance5 (cw : Codeword) (x : BitVec 1)
  | distance6 (cw : Codeword) (x : BitVec 2)
  | distance7 (cw : Codeword) (x : BitVec 2)
  | distance8 (cw : Codeword) (x : BitVec 3)
  | distance9 (cw : Codeword) (x : BitVec 3)
  | distance10 (cw : Codeword) (x : BitVec 4)
  | distance11 (cw : Codeword) (x : BitVec 4)
  | distance12 (cw : Codeword) (x : BitVec 5)
  | distance13 (cw : Codeword) (x : BitVec 5)
  | distance14 (cw : Codeword) (x : BitVec 6)
  | distance15 (cw : Codeword) (x : BitVec 6)
  | distance16 (cw : Codeword) (x : BitVec 7)
  | distance17 (cw : Codeword) (x : BitVec 7)
  | distance18 (cw : Codeword) (x : BitVec 8)
  | distance19 (cw : Codeword) (x : BitVec 8)
  | distance20 (cw : Codeword) (x : BitVec 9)
  | distance21 (cw : Codeword) (x : BitVec 9)
  | distance22 (cw : Codeword) (x : BitVec 10)
  | distance23 (cw : Codeword) (x : BitVec 10)
  | distance24 (cw : Codeword) (x : BitVec 11)
  | distance25 (cw : Codeword) (x : BitVec 11)
  | distance26 (cw : Codeword) (x : BitVec 12)
  | distance27 (cw : Codeword) (x : BitVec 12)
  | distance28 (cw : Codeword) (x : BitVec 13)
  | distance29 (cw : Codeword) (x : BitVec 13)
  | distInvalid (cw : Codeword)
  | init (windowBits : Int)
  | reset (keep : Bool)
  | inflate (input : List Byte) (availOut : Nat) (flush : Byte)
  | setDictionary (dict : List Byte)
  | getHeader (record : HeaderRecord)
  | teardown
deriving DecidableEq, Repr

end Sys2Proof
end

