-- ==== Sys2Proof/Machine/BitStream.lean ====
section
/-! DEFINITION. The bit_stream_parser block: the bit accumulator and its operations (40_bitstream.md R160 to R172), and the byte and bit orders of 20_memory.md R85 to R88. -/

namespace Sys2Proof

/-- The accumulator `hold`/`bits` (10_state.md R35, R36) with the input of the call in progress: the presented
bytes not yet taken, and how many have been taken (20_memory.md R81). -/
structure BitStream where
  hold : U32
  bits : Nat
  input : List Byte
  taken : Nat
deriving DecidableEq, Repr

/-- What NEED answers: the bits are held, the input ran out first (R167: the pulled bytes stay held), or a byte
would be pulled with more than 24 bits held, which no rule does (R169; log 13). -/
inductive Need where
  | held (q : BitStream)
  | starved (q : BitStream)
  | overflow
deriving DecidableEq, Repr

/-- `le16(v)`: the two bytes of `v`, low byte first (41_wrapper.md R196). -/
def le16 (v : U16) : List Byte := [v.setWidth 8, (v >>> 8).setWidth 8]

/-- `le32(v)`: the four bytes of `v`, low byte first (41_wrapper.md R195). -/
def le32 (v : U32) : List Byte :=
  [v.setWidth 8, (v >>> 8).setWidth 8, (v >>> 16).setWidth 8, (v >>> 24).setWidth 8]

/-- `bswap32` (20_memory.md R88). -/
def bswap32 (v : U32) : U32 :=
  (v &&& 0xFF) <<< 24 ||| ((v >>> 8) &&& 0xFF) <<< 16 ||| ((v >>> 16) &&& 0xFF) <<< 8 ||| (v >>> 24)

/-- The low `n` bits of `x` in reverse order (`rev_n` of 43_huffman.md R305). -/
def revBits : Nat → Nat → Nat
  | 0, _ => 0
  | n + 1, x => (x % 2) * 2 ^ n + revBits n (x / 2)

namespace BitStream

/-- PULLBYTE for the next input byte `b` with `rest` behind it (R161). -/
def pullByte (b : Byte) (rest : List Byte) (q : BitStream) : BitStream :=
  { hold := q.hold + b.setWidth 32 <<< q.bits, bits := q.bits + 8, input := rest, taken := q.taken + 1 }

/-- The loop of NEED(n) over the input still presented (R162). -/
def needFrom (n : Nat) : List Byte → BitStream → Need
  | [], q => if n ≤ q.bits then .held q else .starved q
  | b :: rest, q =>
    if n ≤ q.bits then .held q
    else if 24 < q.bits then .overflow
    else needFrom n rest (q.pullByte b rest)

/-- NEED(n) (R162). -/
def need (n : Nat) (q : BitStream) : Need := needFrom n q.input q

/-- BITS(n), the low `n` bits of `hold` (R163). -/
def peekBits (n : Nat) (q : BitStream) : Nat := q.hold.toNat % 2 ^ n

/-- DROP(n) (R164). -/
def drop (n : Nat) (q : BitStream) : BitStream := { q with hold := q.hold >>> n, bits := q.bits - n }

/-- BYTEBITS() (R165). -/
def byteBits (q : BitStream) : BitStream := q.drop (q.bits % 8)

/-- INITBITS() (R166). -/
def initBits (q : BitStream) : BitStream := { q with hold := 0, bits := 0 }

/-- InByte() executed `n` times or until the input ends (20_memory.md R81, R161), for the byte-copy modes (R170). -/
def takeBytes (n : Nat) (q : BitStream) : BitStream :=
  { q with input := q.input.drop n, taken := q.taken + min n q.input.length }

end BitStream

end Sys2Proof
end

