-- ==== Sys2Proof/Machine/Huffman.lean ====
section
/-! DEFINITION. The huffman_decoder block: codes, their construction from code lengths, the fixed codes, and DecodePeek (43_huffman.md R300 to R305, R311 to R315). -/

namespace Sys2Proof

/-- The table-kind tag of BuildCode (R300). -/
inductive CodeKind where
  | codes | lens | dists
deriving DecidableEq, Repr

/-- Entries of a code-length code (R304): `sym(v)`, or the invalid marker of the empty code (R302). -/
inductive ClEntry where
  | sym (v : Fin 19)
  | invalid
deriving DecidableEq, Repr

/-- Entries of a literal/length code (R304); `len k` is symbol `257 + k`, that is
`len(lengthBase k, lengthExtra k)`. -/
inductive LlEntry where
  | lit (v : Byte)
  | eob
  | len (k : Fin 29)
  | invalid
deriving DecidableEq, Repr

/-- Entries of a distance code (R304); `dist k` is symbol `k`, that is `dist(distanceBase k, distanceExtra k)`. -/
inductive DistEntry where
  | dist (k : Fin 30)
  | invalid
deriving DecidableEq, Repr

/-- A code: a finite map from codewords to entries (R304), as the list of its pairs. -/
abbrev Code (ε : Type) := List (Codeword × ε)

/-- The entry a code gives a codeword (R304). -/
def Code.lookup {ε : Type} (c : Code ε) (cw : Codeword) : Option ε :=
  (c.find? (fun p => Nat.beq p.1.len cw.len && Nat.beq p.1.code cw.code)).map Prod.snd

/-- The codeword of width `len` that the low bits of `hold` stand for (R305). -/
def heldCodeword (hold len : Nat) : Codeword := ⟨len, revBits len (hold % 2 ^ len)⟩

/-- The inner loop of DecodePeek (R315): the first width `from, from + 1, ..` (`n` of them) whose held codeword is
in the code. -/
def Code.firstMatch {ε : Type} (c : Code ε) (hold : Nat) : Nat → Nat → Option (Codeword × ε)
  | _, 0 => none
  | from_, n + 1 =>
    match c.lookup (heldCodeword hold from_) with
    | some e => some (heldCodeword hold from_, e)
    | none => c.firstMatch hold (from_ + 1) n

/-- The next element of the stream under code `c`, if a whole codeword is held (R305, R315). -/
def Code.held {ε : Type} (c : Code ε) (q : BitStream) : Option (Codeword × ε) :=
  c.firstMatch q.hold.toNat 1 (min q.bits Config.maxBits)

/-- What DecodePeek answers. -/
inductive Peek (ε : Type) where
  | found (cw : Codeword) (e : ε) (q : BitStream)
  | starved (q : BitStream)
  | overflow
deriving DecidableEq, Repr

/-- The outer loop of DecodePeek over the input still presented (R315). -/
def peekFrom {ε : Type} (c : Code ε) : List Byte → BitStream → Peek ε
  | [], q =>
    match c.held q with
    | some (cw, e) => .found cw e q
    | none => .starved q
  | b :: rest, q =>
    match c.held q with
    | some (cw, e) => .found cw e q
    | none => if 24 < q.bits then .overflow else peekFrom c rest (q.pullByte b rest)

/-- DecodePeek (R315). It drops no bits. -/
def decodePeek {ε : Type} (c : Code ε) (q : BitStream) : Peek ε := peekFrom c q.input q

/-- `count[l]` (R301); there is no count for length 0. -/
def lengthCount (lens : List Nat) (l : Nat) : Nat := if l = 0 then 0 else lens.count l

/-- `max`, the longest length present, or 0 (R301). -/
def maxLength (lens : List Nat) : Nat := lens.foldl max 0

/-- The codewords of length `l` still unassigned after the lengths 1..l, none if over-subscribed (R301). -/
def lengthBudget (lens : List Nat) : Nat → Option Nat
  | 0 => some 1
  | l + 1 =>
    match lengthBudget lens l with
    | none => none
    | some left => if lengthCount lens (l + 1) ≤ 2 * left then some (2 * left - lengthCount lens (l + 1)) else none

/-- `next[l]` for the lengths listed, from the code value and count of the length before (R303). -/
def firstCodesFrom (lens : List Nat) : List Nat → Nat → Nat → List Nat
  | [], _, _ => []
  | l :: ls, code, count => 2 * (code + count) :: firstCodesFrom lens ls (2 * (code + count)) (lengthCount lens l)

/-- `next[0..15]` before any symbol is assigned (R303). -/
def firstCodes (lens : List Nat) : List Nat :=
  0 :: firstCodesFrom lens [1, 2, 3, 4, 5, 6, 7, 8, 9, 10, 11, 12, 13, 14, 15] 0 0

/-- Codewords in symbol order (R303): `sym` is the next symbol, `next` the next code of each length. -/
def assignCodes {ε : Type} (entry : Nat → ε) : Nat → List Nat → List Nat → Code ε
  | _, [], _ => []
  | sym, l :: ls, next =>
    if l = 0 then assignCodes entry (sym + 1) ls next
    else (⟨l, next.getD l 0⟩, entry sym) :: assignCodes entry (sym + 1) ls (next.set l (next.getD l 0 + 1))

/-- The canonical code of a list of lengths (R303). -/
def canonicalCode {ε : Type} (entry : Nat → ε) (lens : List Nat) : Code ε :=
  assignCodes entry 0 lens (firstCodes lens)

/-- BuildCode (R302), the cases in the table's order; `none` is `error`. -/
def buildCode {ε : Type} (kind : CodeKind) (entry : Nat → ε) (invalid : ε) (lens : List Nat) : Option (Code ε) :=
  if maxLength lens = 0 then some [(⟨1, 0⟩, invalid), (⟨1, 1⟩, invalid)]
  else
    match lengthBudget lens Config.maxBits with
    | none => none
    | some 0 => some (canonicalCode entry lens)
    | some (_ + 1) =>
      if kind = .codes ∨ maxLength lens ≠ 1 then none
      else some (canonicalCode entry lens ++ [(⟨1, 1⟩, invalid)])

/-- The entry of a code-length symbol (R304). -/
def clEntry (sym : Nat) : ClEntry := if h : sym < 19 then .sym ⟨sym, h⟩ else .invalid

/-- The entry of a literal/length symbol (R304, 30_encoding.md R120). -/
def llEntry (sym : Nat) : LlEntry :=
  if sym < 256 then .lit (BitVec.ofNat 8 sym)
  else if sym = 256 then .eob
  else if h : sym - 257 < 29 then .len ⟨sym - 257, h⟩
  else .invalid

/-- The entry of a distance symbol (R304, 30_encoding.md R122). -/
def distEntry (sym : Nat) : DistEntry := if h : sym < 30 then .dist ⟨sym, h⟩ else .invalid

/-- BuildCode(CODES, lens) (42_blocks.md R256). -/
def buildClCode (lens : List Nat) : Option (Code ClEntry) := buildCode .codes clEntry .invalid lens
/-- BuildCode(LENS, lens) (42_blocks.md R258). -/
def buildLlCode (lens : List Nat) : Option (Code LlEntry) := buildCode .lens llEntry .invalid lens
/-- BuildCode(DISTS, lens) (42_blocks.md R258). -/
def buildDistCode (lens : List Nat) : Option (Code DistEntry) := buildCode .dists distEntry .invalid lens

/-- L288, the fixed literal/length lengths (30_encoding.md R124). -/
def fixedLlLengths : List Nat :=
  List.replicate 144 8 ++ List.replicate 112 9 ++ List.replicate 24 7 ++ List.replicate 8 8

/-- The fixed distance lengths (30_encoding.md R124). -/
def fixedDistLengths : List Nat := List.replicate 32 5

/-- FIXED_L (R311). -/
def fixedLl : Code LlEntry := (buildLlCode fixedLlLengths).getD []

/-- FIXED_D (R311). -/
def fixedDist : Code DistEntry := (buildDistCode fixedDistLengths).getD []

/-- The code length a code-length entry stands for; an invalid codeword reads as length 0 (42_blocks.md R257, R314). -/
def ClEntry.value : ClEntry → Nat
  | .sym v => v.val
  | .invalid => 0

/-- Some codeword of `c` is held whatever the next 15 bits are (the property R315 gives every built code). -/
def Code.covers {ε : Type} (c : Code ε) : Prop :=
  ∀ hold, (c.firstMatch hold 1 Config.maxBits).isSome = true

/-- No codeword of `c` is a prefix of another, and none stands twice (R304). -/
def Code.prefixFree {ε : Type} (c : Code ε) : Prop :=
  c.Pairwise (fun p q => ∀ n, p.1.len = q.1.len + n → p.1.code / 2 ^ n ≠ q.1.code) ∧
  c.Pairwise (fun p q => ∀ n, q.1.len = p.1.len + n → q.1.code / 2 ^ n ≠ p.1.code)

end Sys2Proof
end

