-- ==== Sys2Proof/Machine/Operands.lean ====
section
/-! DEFINITION. The operand tables of the symbol elements: length and distance bases and extra-bit counts (30_encoding.md R121, R123), the code-length order (R118), the repeat counts (R119), and the dynamic-header counts (R117). -/

namespace Sys2Proof

/-- Bases of the length symbols 257..285 (R121). -/
def lengthBases : List Nat :=
  [3, 4, 5, 6, 7, 8, 9, 10, 11, 13, 15, 17, 19, 23, 27, 31, 35, 43, 51, 59, 67, 83, 99, 115, 131, 163, 195, 227, 258]

/-- Extra-bit counts of the length symbols 257..285 (R121). -/
def lengthExtras : List Nat :=
  [0, 0, 0, 0, 0, 0, 0, 0, 1, 1, 1, 1, 2, 2, 2, 2, 3, 3, 3, 3, 4, 4, 4, 4, 5, 5, 5, 5, 0]

/-- Bases of the distance symbols 0..29 (R123). -/
def distanceBases : List Nat :=
  [1, 2, 3, 4, 5, 7, 9, 13, 17, 25, 33, 49, 65, 97, 129, 193, 257, 385, 513, 769, 1025, 1537, 2049, 3073, 4097,
   6145, 8193, 12289, 16385, 24577]

/-- Extra-bit counts of the distance symbols 0..29 (R123). -/
def distanceExtras : List Nat :=
  [0, 0, 0, 0, 1, 1, 2, 2, 3, 3, 4, 4, 5, 5, 6, 6, 7, 7, 8, 8, 9, 9, 10, 10, 11, 11, 12, 12, 13, 13]

/-- Base of length symbol `257 + k`. -/
def lengthBase (k : Fin 29) : Nat := lengthBases.getD k.val 0
/-- Extra bits of length symbol `257 + k`. -/
def lengthExtra (k : Fin 29) : Nat := lengthExtras.getD k.val 0
/-- Base of distance symbol `k`. -/
def distanceBase (k : Fin 30) : Nat := distanceBases.getD k.val 0
/-- Extra bits of distance symbol `k`. -/
def distanceExtra (k : Fin 30) : Nat := distanceExtras.getD k.val 0

/-- ORDER, the order the code-length-code lengths are given in (R118). -/
def clOrder : List Nat := [16, 17, 18, 0, 8, 7, 9, 6, 10, 5, 11, 4, 12, 3, 13, 2, 14, 1, 15]

/-- Repeat count of code-length symbol 16 (R119). -/
def repeatPrevCount (r : BitVec 2) : Nat := 3 + r.toNat
/-- Repeat count of code-length symbol 17 (R119). -/
def zeroShortCount (r : BitVec 3) : Nat := 3 + r.toNat
/-- Repeat count of code-length symbol 18 (R119). -/
def zeroLongCount (r : BitVec 7) : Nat := 11 + r.toNat

/-- `nlen` from HLIT (R117). -/
def nlenOf (hlit : BitVec 5) : Nat := hlit.toNat + 257
/-- `ndist` from HDIST (R117). -/
def ndistOf (hdist : BitVec 5) : Nat := hdist.toNat + 1
/-- `ncode` from HCLEN (R117). -/
def ncodeOf (hclen : BitVec 4) : Nat := hclen.toNat + 4

end Sys2Proof
end

