-- ==== Sys2Proof/WellFormed.lean ====
section
/-! DEFINITION. Which instructions are well formed: what the operand types leave open and the spec bounds. -/

namespace Sys2Proof

/-- A codeword `(L, c)` of a code has `1 <= L <= 15` and `c < 2^L` (43_huffman.md R304). -/
def Codeword.wellFormed (cw : Codeword) : Bool :=
  decide (1 ≤ cw.len) && decide (cw.len ≤ Config.maxBits) && decide (cw.code < 2 ^ cw.len)

/-- A codeword of the code-length code is at most 7 bits long (43_huffman.md R300). -/
def Codeword.wellFormedCl (cw : Codeword) : Bool :=
  cw.wellFormed && decide (cw.len ≤ 7)

/-- A run of a RAW element: at least one byte, and at most a u16 count of them (30_encoding.md R111, R116, R128). -/
def rawRunWellFormed (data : List Byte) : Bool :=
  !data.isEmpty && decide (data.length < 2 ^ 16)

/-- A run of a STRZ element: at least one byte, and a 0 byte only as its last (30_encoding.md R111). -/
def strzRunWellFormed (data : List Byte) : Bool :=
  !data.isEmpty && data.dropLast.all (fun b => b != 0)

/-- A header record keeps its buffers within their capacities (10_state.md R48). -/
def HeaderRecord.wellFormed (r : HeaderRecord) : Bool :=
  decide ((r.extra.getD []).length ≤ r.extraMax) && decide ((r.name.getD []).length ≤ r.nameMax)
    && decide ((r.comment.getD []).length ≤ r.commentMax)

/-- Every other operand is bounded by its type. The counts of INFLATE are 0..2^32-1 (46_host.md R445, D27). -/
def Instr.wellFormed : Instr → Bool
  | .gzipExtra data | .storedData data => rawRunWellFormed data
  | .gzipName data | .gzipComment data => strzRunWellFormed data
  | .clLength cw _ => cw.wellFormedCl
  | .clRepeatPrev cw _ => cw.wellFormedCl
  | .clZeroShort cw _ => cw.wellFormedCl
  | .clZeroLong cw _ => cw.wellFormedCl
  | .literal cw _ | .endOfBlock cw | .llInvalid cw | .distInvalid cw => cw.wellFormed
  | .length257 cw | .length258 cw | .length259 cw | .length260 cw | .length261 cw | .length262 cw
  | .length263 cw | .length264 cw | .length285 cw => cw.wellFormed
  | .length265 cw _ | .length266 cw _ | .length267 cw _ | .length268 cw _ => cw.wellFormed
  | .length269 cw _ | .length270 cw _ | .length271 cw _ | .length272 cw _ => cw.wellFormed
  | .length273 cw _ | .length274 cw _ | .length275 cw _ | .length276 cw _ => cw.wellFormed
  | .length277 cw _ | .length278 cw _ | .length279 cw _ | .length280 cw _ => cw.wellFormed
  | .length281 cw _ | .length282 cw _ | .length283 cw _ | .length284 cw _ => cw.wellFormed
  | .distance0 cw | .distance1 cw | .distance2 cw | .distance3 cw => cw.wellFormed
  | .distance4 cw _ | .distance5 cw _ => cw.wellFormed
  | .distance6 cw _ | .distance7 cw _ => cw.wellFormed
  | .distance8 cw _ | .distance9 cw _ => cw.wellFormed
  | .distance10 cw _ | .distance11 cw _ => cw.wellFormed
  | .distance12 cw _ | .distance13 cw _ => cw.wellFormed
  | .distance14 cw _ | .distance15 cw _ => cw.wellFormed
  | .distance16 cw _ | .distance17 cw _ => cw.wellFormed
  | .distance18 cw _ | .distance19 cw _ => cw.wellFormed
  | .distance20 cw _ | .distance21 cw _ => cw.wellFormed
  | .distance22 cw _ | .distance23 cw _ => cw.wellFormed
  | .distance24 cw _ | .distance25 cw _ => cw.wellFormed
  | .distance26 cw _ | .distance27 cw _ => cw.wellFormed
  | .distance28 cw _ | .distance29 cw _ => cw.wellFormed
  | .inflate input availOut _ => decide (input.length < 2 ^ 32) && decide (availOut < 2 ^ 32)
  | .getHeader r => r.wellFormed
  | .zlibHeader _ _ | .zlibDictid _ | .zlibAdler32 _ | .gzipMagic | .gzipCmFlg _ _ | .gzipMtime _
  | .gzipXflOs _ _ | .gzipXlen _ | .gzipHcrc _ | .gzipCrc32 _ | .gzipIsize _ | .blockStored _ | .blockFixed _
  | .blockDynamic _ | .blockReserved _ | .storedLenNlen _ _ | .dynCounts _ _ _ | .dynCllen _ | .init _
  | .reset _ | .setDictionary _ | .teardown => true

end Sys2Proof
end

