-- ==== Sys2Proof/Decode.lean ====
section
/-! DEFINITION. The decoder (which element the next bits of the stream are, given what the automaton expects; which instruction a command record is) and the encoder (30_encoding.md). -/

namespace Sys2Proof

/-- What the automaton expects next: the element kind its mode reads, with what that mode's rule consults
(46_host.md R448). -/
inductive Context where
  | head (wrap : Wrap)
  | flags
  | time
  | os
  | xlen
  | extra (n : Nat)
  | name
  | comment
  | hcrc
  | dictid
  | adler32
  | crc32
  | isize
  | blockHeader
  | storedLen
  | storedData (n : Nat)
  | dynCounts
  | clLen
  | codeLengths (c : Code ClEntry)
  | litLen (c : Code LlEntry)
  | distance (c : Code DistEntry)
deriving DecidableEq, Repr

/-- The part of an element already dropped when the input ends inside it: the codeword of a length or distance
symbol whose extra bits are still to come (44_symbols.md R351, R353). -/
inductive Pending where
  | length (k : Fin 29)
  | distance (k : Fin 30)
deriving DecidableEq, Repr

/-- What the decoder answers. `element i q`: the element is instruction `i`; in `q` its bits have been pulled, and
for a literal/length or distance symbol its codeword has been dropped (43_huffman.md R313). `starved p q`: the
input ended first (40_bitstream.md R167). `overflow`: rejected, the accumulator would hold more than 32 bits. -/
inductive Fetched where
  | element (i : Instr) (q : BitStream)
  | starved (p : Option Pending) (q : BitStream)
  | overflow
deriving DecidableEq, Repr

/-- An element of `n` bits read by NEED(n) (30_encoding.md R111: BITS and BYTES). -/
def decodeField (n : Nat) (f : BitStream → Instr) (q : BitStream) : Fetched :=
  match q.need n with
  | .held q' => .element (f q') q'
  | .starved q' => .starved none q'
  | .overflow => .overflow

/-- A run of bytes taken directly from the input (30_encoding.md R111: RAW and STRZ). -/
def decodeRun (data : List Byte) (f : List Byte → Instr) (q : BitStream) : Fetched :=
  if data.isEmpty then .starved none q else .element (f data) (q.takeBytes data.length)

/-- The bytes up to and including the first 0 byte, or all of them (30_encoding.md R111: STRZ). -/
def strzRun : List Byte → List Byte
  | [] => []
  | b :: bs => if b = 0 then [b] else b :: strzRun bs

/-- The instruction of length symbol `257 + k` with extra bits `x` (30_encoding.md R121). -/
def lengthInstr (k : Fin 29) (cw : Codeword) (x : Nat) : Instr :=
  match k.val with
  | 0 => .length257 cw
  | 1 => .length258 cw
  | 2 => .length259 cw
  | 3 => .length260 cw
  | 4 => .length261 cw
  | 5 => .length262 cw
  | 6 => .length263 cw
  | 7 => .length264 cw
  | 8 => .length265 cw (BitVec.ofNat 1 x)
  | 9 => .length266 cw (BitVec.ofNat 1 x)
  | 10 => .length267 cw (BitVec.ofNat 1 x)
  | 11 => .length268 cw (BitVec.ofNat 1 x)
  | 12 => .length269 cw (BitVec.ofNat 2 x)
  | 13 => .length270 cw (BitVec.ofNat 2 x)
  | 14 => .length271 cw (BitVec.ofNat 2 x)
  | 15 => .length272 cw (BitVec.ofNat 2 x)
  | 16 => .length273 cw (BitVec.ofNat 3 x)
  | 17 => .length274 cw (BitVec.ofNat 3 x)
  | 18 => .length275 cw (BitVec.ofNat 3 x)
  | 19 => .length276 cw (BitVec.ofNat 3 x)
  | 20 => .length277 cw (BitVec.ofNat 4 x)
  | 21 => .length278 cw (BitVec.ofNat 4 x)
  | 22 => .length279 cw (BitVec.ofNat 4 x)
  | 23 => .length280 cw (BitVec.ofNat 4 x)
  | 24 => .length281 cw (BitVec.ofNat 5 x)
  | 25 => .length282 cw (BitVec.ofNat 5 x)
  | 26 => .length283 cw (BitVec.ofNat 5 x)
  | 27 => .length284 cw (BitVec.ofNat 5 x)
  | _ => .length285 cw

/-- The instruction of distance symbol `k` with extra bits `x` (30_encoding.md R123). -/
def distanceInstr (k : Fin 30) (cw : Codeword) (x : Nat) : Instr :=
  match k.val with
  | 0 => .distance0 cw
  | 1 => .distance1 cw
  | 2 => .distance2 cw
  | 3 => .distance3 cw
  | 4 => .distance4 cw (BitVec.ofNat 1 x)
  | 5 => .distance5 cw (BitVec.ofNat 1 x)
  | 6 => .distance6 cw (BitVec.ofNat 2 x)
  | 7 => .distance7 cw (BitVec.ofNat 2 x)
  | 8 => .distance8 cw (BitVec.ofNat 3 x)
  | 9 => .distance9 cw (BitVec.ofNat 3 x)
  | 10 => .distance10 cw (BitVec.ofNat 4 x)
  | 11 => .distance11 cw (BitVec.ofNat 4 x)
  | 12 => .distance12 cw (BitVec.ofNat 5 x)
  | 13 => .distance13 cw (BitVec.ofNat 5 x)
  | 14 => .distance14 cw (BitVec.ofNat 6 x)
  | 15 => .distance15 cw (BitVec.ofNat 6 x)
  | 16 => .distance16 cw (BitVec.ofNat 7 x)
  | 17 => .distance17 cw (BitVec.ofNat 7 x)
  | 18 => .distance18 cw (BitVec.ofNat 8 x)
  | 19 => .distance19 cw (BitVec.ofNat 8 x)
  | 20 => .distance20 cw (BitVec.ofNat 9 x)
  | 21 => .distance21 cw (BitVec.ofNat 9 x)
  | 22 => .distance22 cw (BitVec.ofNat 10 x)
  | 23 => .distance23 cw (BitVec.ofNat 10 x)
  | 24 => .distance24 cw (BitVec.ofNat 11 x)
  | 25 => .distance25 cw (BitVec.ofNat 11 x)
  | 26 => .distance26 cw (BitVec.ofNat 12 x)
  | 27 => .distance27 cw (BitVec.ofNat 12 x)
  | 28 => .distance28 cw (BitVec.ofNat 13 x)
  | _ => .distance29 cw (BitVec.ofNat 13 x)

/-- The two bytes held by a HEAD element (41_wrapper.md R192, R193): the gzip magic, when `wrap` admits it, or a
zlib header. -/
def headInstr (wrap : Wrap) (q : BitStream) : Instr :=
  if (wrap = .gzip ∨ wrap = .auto) ∧ q.hold = 0x8B1F then .gzipMagic
  else .zlibHeader (q.hold.setWidth 8) ((q.hold >>> 8).setWidth 8)

/-- The block header held (30_encoding.md R114, R115). -/
def blockInstr (q : BitStream) : Instr :=
  let final := q.hold.getLsbD 0
  match q.peekBits 3 / 2 with
  | 0 => .blockStored final
  | 1 => .blockFixed final
  | 2 => .blockDynamic final
  | _ => .blockReserved final

/-- A code-length element after DecodePeek found `cw` (42_blocks.md R257): a repeat keeps its codeword held until
its extra bits are held too. -/
def decodeClSymbol (cw : Codeword) (e : ClEntry) (q : BitStream) : Fetched :=
  if e.value < 16 then .element (.clLength cw (BitVec.ofNat 4 e.value)) q
  else if e.value = 16 then
    decodeField (cw.len + 2) (fun q' => .clRepeatPrev cw ((q'.hold >>> cw.len).setWidth 2)) q
  else if e.value = 17 then
    decodeField (cw.len + 3) (fun q' => .clZeroShort cw ((q'.hold >>> cw.len).setWidth 3)) q
  else decodeField (cw.len + 7) (fun q' => .clZeroLong cw ((q'.hold >>> cw.len).setWidth 7)) q

/-- Extra bits of a length or distance symbol, its codeword already dropped (44_symbols.md R352, R354). -/
def decodeExtra (e : Nat) (p : Pending) (f : Nat → Instr) (q : BitStream) : Fetched :=
  match q.need e with
  | .held q' => .element (f (q'.peekBits e)) q'
  | .starved q' => .starved (some p) q'
  | .overflow => .overflow

/-- A literal/length element after DROP(w) (44_symbols.md R350, R351). -/
def decodeLlSymbol (cw : Codeword) (e : LlEntry) (q : BitStream) : Fetched :=
  match e with
  | .lit v => .element (.literal cw v) q
  | .eob => .element (.endOfBlock cw) q
  | .invalid => .element (.llInvalid cw) q
  | .len k => decodeExtra (lengthExtra k) (.length k) (lengthInstr k cw) q

/-- A distance element after DROP(w) (44_symbols.md R353). -/
def decodeDistSymbol (cw : Codeword) (e : DistEntry) (q : BitStream) : Fetched :=
  match e with
  | .invalid => .element (.distInvalid cw) q
  | .dist k => decodeExtra (distanceExtra k) (.distance k) (distanceInstr k cw) q

/-- The decoder: total on every context and every stream. -/
def decode (ctx : Context) (q : BitStream) : Fetched :=
  match ctx with
  | .head wrap => decodeField 16 (headInstr wrap) q
  | .flags => decodeField 16 (fun q' => .gzipCmFlg (q'.hold.setWidth 8) ((q'.hold >>> 8).setWidth 8)) q
  | .time => decodeField 32 (fun q' => .gzipMtime q'.hold) q
  | .os => decodeField 16 (fun q' => .gzipXflOs (q'.hold.setWidth 8) ((q'.hold >>> 8).setWidth 8)) q
  | .xlen => decodeField 16 (fun q' => .gzipXlen (q'.hold.setWidth 16)) q
  | .extra n => decodeRun (q.input.take n) .gzipExtra q
  | .name => decodeRun (strzRun q.input) .gzipName q
  | .comment => decodeRun (strzRun q.input) .gzipComment q
  | .hcrc => decodeField 16 (fun q' => .gzipHcrc (q'.hold.setWidth 16)) q
  | .dictid => decodeField 32 (fun q' => .zlibDictid (bswap32 q'.hold)) q
  | .adler32 => decodeField 32 (fun q' => .zlibAdler32 (bswap32 q'.hold)) q
  | .crc32 => decodeField 32 (fun q' => .gzipCrc32 q'.hold) q
  | .isize => decodeField 32 (fun q' => .gzipIsize q'.hold) q
  | .blockHeader => decodeField 3 blockInstr q
  | .storedLen =>
    decodeField 32 (fun q' => .storedLenNlen (q'.hold.setWidth 16) ((q'.hold >>> 16).setWidth 16)) q.byteBits
  | .storedData n => decodeRun (q.input.take n) .storedData q
  | .dynCounts =>
    decodeField 14
      (fun q' => .dynCounts (q'.hold.setWidth 5) ((q'.hold >>> 5).setWidth 5) ((q'.hold >>> 10).setWidth 4)) q
  | .clLen => decodeField 3 (fun q' => .dynCllen (q'.hold.setWidth 3)) q
  | .codeLengths c =>
    match decodePeek c q with
    | .found cw e q' => decodeClSymbol cw e q'
    | .starved q' => .starved none q'
    | .overflow => .overflow
  | .litLen c =>
    match decodePeek c q with
    | .found cw e q' => decodeLlSymbol cw e (q'.drop cw.len)
    | .starved q' => .starved none q'
    | .overflow => .overflow
  | .distance c =>
    match decodePeek c q with
    | .found cw e q' => decodeDistSymbol cw e (q'.drop cw.len)
    | .starved q' => .starved none q'
    | .overflow => .overflow

/-- The instruction a command record is (30_encoding.md R135). -/
def decodeCommand : Command → Instr
  | .init windowBits => .init windowBits
  | .reset keep => .reset keep
  | .inflate input availOut flush => .inflate input availOut flush
  | .setDictionary dict => .setDictionary dict
  | .getHeader record => .getHeader record
  | .teardown => .teardown

/-! ### The encoder -/

/-- What an instruction is written as: a piece of the stream, its bits in stream order, or a command record. -/
inductive Encoding where
  | stream (bits : List Bool)
  | command (c : Command)
deriving DecidableEq, Repr

/-- An `n`-bit field, first stream bit the least significant (30_encoding.md R112). -/
def bitsLsb (n v : Nat) : List Bool := (List.range n).map (fun i => v.testBit i)

/-- A codeword, first stream bit the most significant (30_encoding.md R112). -/
def Codeword.bits (cw : Codeword) : List Bool := (bitsLsb cw.len cw.code).reverse

/-- Whole bytes in stream order. -/
def byteStream (data : List Byte) : List Bool := data.flatMap (fun b => bitsLsb 8 b.toNat)

/-- The encoder, from the encoding tables of 30_encoding.md and the byte orders of 20_memory.md R87. -/
def encode : Instr → Encoding
  | .zlibHeader cmf flg => .stream (byteStream [cmf, flg])
  | .zlibDictid id => .stream (byteStream (le32 id).reverse)
  | .zlibAdler32 v => .stream (byteStream (le32 v).reverse)
  | .gzipMagic => .stream (byteStream [0x1F, 0x8B])
  | .gzipCmFlg cm flg => .stream (byteStream [cm, flg])
  | .gzipMtime t => .stream (byteStream (le32 t))
  | .gzipXflOs xfl os => .stream (byteStream [xfl, os])
  | .gzipXlen n => .stream (byteStream (le16 n))
  | .gzipExtra data => .stream (byteStream data)
  | .gzipName data => .stream (byteStream data)
  | .gzipComment data => .stream (byteStream data)
  | .gzipHcrc crc => .stream (byteStream (le16 crc))
  | .gzipCrc32 v => .stream (byteStream (le32 v))
  | .gzipIsize n => .stream (byteStream (le32 n))
  | .blockStored final => .stream [final, false, false]
  | .blockFixed final => .stream [final, true, false]
  | .blockDynamic final => .stream [final, false, true]
  | .blockReserved final => .stream [final, true, true]
  | .storedLenNlen len nlen => .stream (byteStream (le16 len ++ le16 nlen))
  | .storedData data => .stream (byteStream data)
  | .dynCounts hlit hdist hclen =>
    .stream (bitsLsb 5 hlit.toNat ++ bitsLsb 5 hdist.toNat ++ bitsLsb 4 hclen.toNat)
  | .dynCllen len => .stream (bitsLsb 3 len.toNat)
  | .clLength cw _ => .stream cw.bits
  | .clRepeatPrev cw r => .stream (cw.bits ++ bitsLsb 2 r.toNat)
  | .clZeroShort cw r => .stream (cw.bits ++ bitsLsb 3 r.toNat)
  | .clZeroLong cw r => .stream (cw.bits ++ bitsLsb 7 r.toNat)
  | .literal cw _ => .stream cw.bits
  | .endOfBlock cw => .stream cw.bits
  | .length257 cw => .stream cw.bits
  | .length258 cw => .stream cw.bits
  | .length259 cw => .stream cw.bits
  | .length260 cw => .stream cw.bits
  | .length261 cw => .stream cw.bits
  | .length262 cw => .stream cw.bits
  | .length263 cw => .stream cw.bits
  | .length264 cw => .stream cw.bits
  | .length265 cw x => .stream (cw.bits ++ bitsLsb 1 x.toNat)
  | .length266 cw x => .stream (cw.bits ++ bitsLsb 1 x.toNat)
  | .length267 cw x => .stream (cw.bits ++ bitsLsb 1 x.toNat)
  | .length268 cw x => .stream (cw.bits ++ bitsLsb 1 x.toNat)
  | .length269 cw x => .stream (cw.bits ++ bitsLsb 2 x.toNat)
  | .length270 cw x => .stream (cw.bits ++ bitsLsb 2 x.toNat)
  | .length271 cw x => .stream (cw.bits ++ bitsLsb 2 x.toNat)
  | .length272 cw x => .stream (cw.bits ++ bitsLsb 2 x.toNat)
  | .length273 cw x => .stream (cw.bits ++ bitsLsb 3 x.toNat)
  | .length274 cw x => .stream (cw.bits ++ bitsLsb 3 x.toNat)
  | .length275 cw x => .stream (cw.bits ++ bitsLsb 3 x.toNat)
  | .length276 cw x => .stream (cw.bits ++ bitsLsb 3 x.toNat)
  | .length277 cw x => .stream (cw.bits ++ bitsLsb 4 x.toNat)
  | .length278 cw x => .stream (cw.bits ++ bitsLsb 4 x.toNat)
  | .length279 cw x => .stream (cw.bits ++ bitsLsb 4 x.toNat)
  | .length280 cw x => .stream (cw.bits ++ bitsLsb 4 x.toNat)
  | .length281 cw x => .stream (cw.bits ++ bitsLsb 5 x.toNat)
  | .length282 cw x => .stream (cw.bits ++ bitsLsb 5 x.toNat)
  | .length283 cw x => .stream (cw.bits ++ bitsLsb 5 x.toNat)
  | .length284 cw x => .stream (cw.bits ++ bitsLsb 5 x.toNat)
  | .length285 cw => .stream cw.bits
  | .llInvalid cw => .stream cw.bits
  | .distance0 cw => .stream cw.bits
  | .distance1 cw => .stream cw.bits
  | .distance2 cw => .stream cw.bits
  | .distance3 cw => .stream cw.bits
  | .distance4 cw x => .stream (cw.bits ++ bitsLsb 1 x.toNat)
  | .distance5 cw x => .stream (cw.bits ++ bitsLsb 1 x.toNat)
  | .distance6 cw x => .stream (cw.bits ++ bitsLsb 2 x.toNat)
  | .distance7 cw x => .stream (cw.bits ++ bitsLsb 2 x.toNat)
  | .distance8 cw x => .stream (cw.bits ++ bitsLsb 3 x.toNat)
  | .distance9 cw x => .stream (cw.bits ++ bitsLsb 3 x.toNat)
  | .distance10 cw x => .stream (cw.bits ++ bitsLsb 4 x.toNat)
  | .distance11 cw x => .stream (cw.bits ++ bitsLsb 4 x.toNat)
  | .distance12 cw x => .stream (cw.bits ++ bitsLsb 5 x.toNat)
  | .distance13 cw x => .stream (cw.bits ++ bitsLsb 5 x.toNat)
  | .distance14 cw x => .stream (cw.bits ++ bitsLsb 6 x.toNat)
  | .distance15 cw x => .stream (cw.bits ++ bitsLsb 6 x.toNat)
  | .distance16 cw x => .stream (cw.bits ++ bitsLsb 7 x.toNat)
  | .distance17 cw x => .stream (cw.bits ++ bitsLsb 7 x.toNat)
  | .distance18 cw x => .stream (cw.bits ++ bitsLsb 8 x.toNat)
  | .distance19 cw x => .stream (cw.bits ++ bitsLsb 8 x.toNat)
  | .distance20 cw x => .stream (cw.bits ++ bitsLsb 9 x.toNat)
  | .distance21 cw x => .stream (cw.bits ++ bitsLsb 9 x.toNat)
  | .distance22 cw x => .stream (cw.bits ++ bitsLsb 10 x.toNat)
  | .distance23 cw x => .stream (cw.bits ++ bitsLsb 10 x.toNat)
  | .distance24 cw x => .stream (cw.bits ++ bitsLsb 11 x.toNat)
  | .distance25 cw x => .stream (cw.bits ++ bitsLsb 11 x.toNat)
  | .distance26 cw x => .stream (cw.bits ++ bitsLsb 12 x.toNat)
  | .distance27 cw x => .stream (cw.bits ++ bitsLsb 12 x.toNat)
  | .distance28 cw x => .stream (cw.bits ++ bitsLsb 13 x.toNat)
  | .distance29 cw x => .stream (cw.bits ++ bitsLsb 13 x.toNat)
  | .distInvalid cw => .stream cw.bits
  | .init windowBits => .command (.init windowBits)
  | .reset keep => .command (.reset keep)
  | .inflate input availOut flush => .command (.inflate input availOut flush)
  | .setDictionary dict => .command (.setDictionary dict)
  | .getHeader record => .command (.getHeader record)
  | .teardown => .command .teardown

/-- The number whose bits, least significant first, are listed. -/
def ofBitsLsb : List Bool → Nat
  | [] => 0
  | b :: bs => b.toNat + 2 * ofBitsLsb bs

/-- Stream bits as bytes: the first bit is bit 0 of the first byte (20_memory.md R85); the last byte is padded with
zero bits. -/
def packBits : List Bool → List Byte
  | [] => []
  | b0 :: b1 :: b2 :: b3 :: b4 :: b5 :: b6 :: b7 :: rest =>
    BitVec.ofNat 8 (ofBitsLsb [b0, b1, b2, b3, b4, b5, b6, b7]) :: packBits rest
  | short => [BitVec.ofNat 8 (ofBitsLsb short)]

/-- A stream at its first bit, nothing yet pulled. -/
def BitStream.ofBytes (input : List Byte) : BitStream := ⟨0, 0, input, 0⟩

/-! ### Table words (the host's question; log 15) -/

/-- The two bytes satisfy what the table's ZLIB_HEADER row asks: CM = 8, CINFO + 8 <= 15, and the header check
(30_encoding.md R126). -/
def isZlibHeaderWord (w : Nat) : Bool :=
  w % 16 == 8 && decide (w / 16 % 16 ≤ 7) && (w % 256 * 256 + w / 256 % 256) % 31 == 0

/-- The mode in which a table word of `nbits` bits is read: the first row of the table, in the table's order, of
that width in whole bytes whose fixed bits and conditions the word meets. Rows whose encoding depends on a Huffman
code, RAW, STRZ and CMD rows have no word. -/
def tableMode (nbits w : Nat) : Option Mode :=
  if nbits = 8 then some .typedo
  else if nbits = 16 then
    if w = 0x8B1F ∨ isZlibHeaderWord w then some .head
    else if w % 256 = 8 ∧ w / 2 ^ 13 = 0 then some .flags
    else some .os
  else if nbits = 32 then
    if w % 2 ^ 16 + w / 2 ^ 16 = 0xFFFF then some .stored else some .time
  else none

/-- The bytes of a table word as the stream carries them, with zero bytes above its own up to the longest fixed-width
element. -/
def tableBytes (nbits w : Nat) : List Byte := le32 (BitVec.ofNat 32 (w % 2 ^ nbits))

/-- The context a table word is decoded in. -/
def tableContext : Mode → Option Context
  | .head => some (.head .auto)
  | .flags => some .flags
  | .time => some .time
  | .os => some .os
  | .typedo => some .blockHeader
  | .stored => some .storedLen
  | _ => none

/-- The instruction the decoder reads from a table word (log 15). -/
def decodeTableWord (nbits w : Nat) : Option Instr :=
  match (tableMode nbits w).bind tableContext with
  | none => none
  | some ctx =>
    match decode ctx (.ofBytes (tableBytes nbits w)) with
    | .element i _ => some i
    | .starved _ _ => none
    | .overflow => none

end Sys2Proof
end

