-- ==== Sys2Proof/Machine/State.lean ====
section
/-! DEFINITION. The state of the core (10_state.md R30 to R52), the reasons a step can stop, and the state after reset. -/

namespace Sys2Proof.Machine

/-- A byte memory in canonical form: addresses strictly rising, no entry equal to `Memory.unlisted`. -/
abbrev Memory := List Host.Cell

/-- What an address nothing is listed for reads as. DESIGN CHOICE (log 5), unsafe: 10_state.md R52 leaves the
window's contents unspecified. -/
def Memory.unlisted : Byte := 0

/-- The canonical form of a memory. -/
abbrev Memory.wf (m : Memory) : Prop :=
  m.Pairwise (fun a b => a.1 < b.1) ∧ ∀ c ∈ m, c.2 ≠ Memory.unlisted

/-- The sliding_window_buffer block's registers and RAM (10_state.md R45). -/
structure Window where
  ram : Memory
  wsize : Nat
  whave : Nat
  wnext : Nat
deriving DecidableEq, Repr

/-- What the host sees of the last command: its status, and for INFLATE the consumed count and the produced bytes
(46_host.md R451). -/
structure Reply where
  status : Status
  consumed : Nat
  output : List Byte
deriving DecidableEq, Repr

/-- Why a step stops. -/
inductive Fault where
  /-- Raised by `step` when an element would pull a byte with more than 24 bits held. Safe (log 13): 40_bitstream.md
  R169 says no rule executes such a PULLBYTE, and no state that R51 allows comes to it. -/
  | accumulatorOverflow
deriving DecidableEq, Repr

/-- Why an instruction has no meaning. -/
inductive Refusal where
  /-- Raised by `exec` for an instruction that has no meaning yet; no arm raises it. -/
  | notModelled (mnemonic : String)
  /-- Raised by `step` for a queued command whose operands no host can present (30_encoding.md R135, 46_host.md R445,
  10_state.md R48). Safe (log 14). -/
  | illFormedCommand
deriving DecidableEq, Repr

/-- The state: the decoder state of 10_state.md R30, the call in progress (00_scope.md R10), the host's side, and the
model's own parameter fields (log 6). -/
structure State where
  valid : Bool
  wrap : Wrap
  wbits : Nat
  mode : Mode
  last : Bool
  fmt : Fmt
  gflg : Byte
  check : U32
  hcheck : U32
  havedict : Bool
  length : Nat
  offset : Nat
  extra : Nat
  nlen : Nat
  ndist : Nat
  ncode : Nat
  ncnt : Nat
  lens : List (BitVec 4)
  lcode : Code LlEntry
  dcode : Code DistEntry
  clcode : Code ClEntry
  win : Window
  total : U32
  totalIn : U64
  totalOut : U64
  msg : Msg
  head : Option HeaderRecord
  /-- `hold`, `bits`, and the input of the call in progress -/
  src : BitStream
  /-- a call of INFLATE is in progress -/
  running : Bool
  left : Nat
  outBuf : List Byte
  flush : Flush
  commands : List Command
  reply : Option Reply
  /-- the parameter ALLOC_MAY_FAIL (00_scope.md R7); no step changes it -/
  allocMayFail : Bool
  /-- how many allocation draws have been made (log 6) -/
  allocDraws : Nat
deriving DecidableEq, Repr

/-- The state right after reset: INIT with windowBits `Config.resetWindowBits` = 47 (70_reset_and_hazards.md R530, log
2), so the INIT column of 10_state.md R52 with `wrap = auto` and `wbits = 15`; the fields R52 calls unspecified are 0
or empty (DESIGN CHOICE, unsafe, log 3), window RAM lists nothing (log 5), and no command is queued (log 10). -/
def State.reset : State where
  valid := true
  wrap := .auto
  wbits := 15
  mode := .head
  last := false
  fmt := .unknown
  gflg := 0
  check := 1
  hcheck := 0
  havedict := false
  length := 0
  offset := 0
  extra := 0
  nlen := 0
  ndist := 0
  ncode := 0
  ncnt := 0
  lens := List.replicate 320 0
  lcode := []
  dcode := []
  clcode := []
  win := ⟨[], 0, 0, 0⟩
  total := 0
  totalIn := 0
  totalOut := 0
  msg := .e0
  head := none
  src := ⟨0, 0, [], 0⟩
  running := false
  left := 0
  outBuf := []
  flush := .noFlush
  commands := []
  reply := none
  allocMayFail := false
  allocDraws := 0

end Sys2Proof.Machine
end

