-- ==== Sys2Proof/Machine/Flags.lean ====
section
/-! DEFINITION. The conditions and checks the rules compute: the two checksums (46_host.md R470, R471), the gzip flag bits (30_encoding.md R129), the numeric codes of statuses, flushes, modes and messages (R136, 10_state.md R33, 60_exceptions.md R481), windowBits (46_host.md R442), and the status rule of the epilogue (46_host.md R450). -/

namespace Sys2Proof.Machine

/-- One byte of Adler-32 on the two sums (R470). -/
def adlerStep (s : Nat × Nat) (b : Byte) : Nat × Nat :=
  ((s.1 + b.toNat) % 65521, (s.2 + (s.1 + b.toNat) % 65521) % 65521)

/-- `adler32_update` (R470; log 8). -/
def adler32Update (a : U32) (bytes : List Byte) : U32 :=
  let s := bytes.foldl adlerStep (a.toNat % 2 ^ 16, a.toNat / 2 ^ 16)
  BitVec.ofNat 32 (s.2 * 2 ^ 16 + s.1)

/-- One bit of CRC-32 (R471). -/
def crcShift (c : U32) : U32 := (c >>> 1) ^^^ (if c.getLsbD 0 then 0xEDB88320 else 0)

/-- One byte of CRC-32 on the inverted register (R471). -/
def crcStep (c : U32) (b : Byte) : U32 :=
  crcShift (crcShift (crcShift (crcShift (crcShift (crcShift (crcShift (crcShift (c ^^^ b.setWidth 32))))))))

/-- `crc32_update` (R471; log 8). -/
def crc32Update (c : U32) (bytes : List Byte) : U32 :=
  bytes.foldl crcStep (c ^^^ 0xFFFFFFFF) ^^^ 0xFFFFFFFF

/-- The data checksum the stream's format selects (20_memory.md R83, 10_state.md R38). -/
def dataUpdate (fmt : Fmt) (c : U32) (bytes : List Byte) : U32 :=
  if fmt = .gzip then crc32Update c bytes else adler32Update c bytes

/-- FTEXT, bit 0 of the gzip FLG byte (30_encoding.md R129). -/
def ftext (flg : Byte) : Bool := flg.getLsbD 0
/-- FHCRC, bit 1. -/
def fhcrc (flg : Byte) : Bool := flg.getLsbD 1
/-- FEXTRA, bit 2. -/
def fextra (flg : Byte) : Bool := flg.getLsbD 2
/-- FNAME, bit 3. -/
def fname (flg : Byte) : Bool := flg.getLsbD 3
/-- FCOMMENT, bit 4. -/
def fcomment (flg : Byte) : Bool := flg.getLsbD 4
/-- The reserved bits 7:5 are not all 0. -/
def freserved (flg : Byte) : Bool := flg >>> 5 != 0

/-- Status numbers (30_encoding.md R136). -/
def statusCode : Status → Int
  | .ok => 0
  | .streamEnd => 1
  | .needDict => 2
  | .streamError => -2
  | .dataError => -3
  | .memError => -4
  | .bufError => -5

/-- Flush numbers (30_encoding.md R136); any other value is none. -/
def flushOfCode (code : Byte) : Option Flush :=
  if code = 0 then some .noFlush
  else if code = 2 then some .syncFlush
  else if code = 4 then some .finish
  else if code = 5 then some .block
  else if code = 6 then some .trees
  else none

/-- Mode numbers (10_state.md R33). No rule compares them. -/
def modeNumber : Mode → Nat
  | .head => 1 | .flags => 2 | .time => 3 | .os => 4 | .exlen => 5 | .extra => 6 | .name => 7 | .comment => 8
  | .hcrc => 9 | .dictid => 10 | .dict => 11 | .type => 12 | .typedo => 13 | .stored => 14 | .copy_ => 15
  | .copy => 16 | .table => 17 | .lenlens => 18 | .codelens => 19 | .len_ => 20 | .len => 21 | .lenext => 22
  | .dist => 23 | .distext => 24 | .matched => 25 | .lit => 26 | .check => 27 | .length => 28 | .done => 29
  | .bad => 30 | .mem => 31

/-- Message texts (60_exceptions.md R481). -/
def msgText : Msg → String
  | .e0 => ""
  | .e1 => "incorrect header check"
  | .e2 => "unknown compression method"
  | .e3 => "invalid window size"
  | .e4 => "unknown header flags set"
  | .e5 => "header crc mismatch"
  | .e6 => "invalid block type"
  | .e7 => "invalid stored block lengths"
  | .e8 => "too many length or distance symbols"
  | .e9 => "invalid code lengths set"
  | .e10 => "invalid bit length repeat"
  | .e11 => "invalid code -- missing end-of-block"
  | .e12 => "invalid literal/lengths set"
  | .e13 => "invalid distances set"
  | .e14 => "invalid literal/length code"
  | .e15 => "invalid distance code"
  | .e16 => "invalid distance too far back"
  | .e17 => "incorrect data check"
  | .e18 => "incorrect length check"

/-- windowBits (46_host.md R442): the wrapper and `wbits` it selects, or none where it is illegal. -/
def windowBitsConfig (w : Int) : Option (Wrap × Nat) :=
  if -15 ≤ w ∧ w ≤ -8 then some (.none, (-w).toNat)
  else if w = 0 then some (.zlib, 0)
  else if 8 ≤ w ∧ w ≤ 15 then some (.zlib, w.toNat)
  else if w = 16 then some (.gzip, 0)
  else if 24 ≤ w ∧ w ≤ 31 then some (.gzip, (w - 16).toNat)
  else if w = 32 then some (.auto, 0)
  else if 40 ≤ w ∧ w ≤ 47 then some (.auto, (w - 32).toNat)
  else none

/-- The seed of `check` at a reset (10_state.md R52, 70_reset_and_hazards.md R531). -/
def checkSeed (wrap : Wrap) : U32 := if wrap = .zlib ∨ wrap = .auto then 1 else 0

/-- The status a call returns when its mode loop left with `r` (46_host.md R450): OK becomes BUF_ERROR when nothing
was consumed or produced, or when the flush is FINISH. -/
def callStatus (r : Status) (consumed produced : Nat) (flush : Flush) : Status :=
  if r = .ok ∧ ((consumed = 0 ∧ produced = 0) ∨ flush = .finish) then .bufError else r

/-- The zlib header check: `(CMF*256 + FLG) mod 31 = 0` (30_encoding.md R126). -/
def zlibCheckOk (cmf flg : Byte) : Bool := (cmf.toNat * 256 + flg.toNat) % 31 == 0
/-- CM, bits 3:0 of CMF. -/
def zlibCm (cmf : Byte) : Nat := cmf.toNat % 16
/-- Window bits, CINFO + 8. -/
def zlibWindowBits (cmf : Byte) : Nat := cmf.toNat / 16 + 8
/-- FDICT, bit 5 of FLG. -/
def zlibFdict (flg : Byte) : Bool := flg.getLsbD 5

end Sys2Proof.Machine
end

