-- ==== Sys2Proof/Machine/Memory.lean ====
section
/-! DEFINITION. Byte memory operations: the only readers and writers of a `Memory` (20_memory.md R90). -/

namespace Sys2Proof.Machine

/-- The byte at address `a`. -/
def Memory.read (m : Memory) (a : Nat) : Byte :=
  match m.find? (fun c => c.1 == a) with
  | some c => c.2
  | none => Memory.unlisted

/-- The listed cells of a run of bytes at address `a` upward. -/
def Memory.cells : Nat → List Byte → Memory
  | _, [] => []
  | a, b :: bs => if b = Memory.unlisted then Memory.cells (a + 1) bs else (a, b) :: Memory.cells (a + 1) bs

/-- Write the bytes `data` at addresses `a, a + 1, ..`, in increasing order of position (20_memory.md R90). -/
def Memory.write (m : Memory) (a : Nat) (data : List Byte) : Memory :=
  m.filter (fun c => decide (c.1 < a)) ++ Memory.cells a data
    ++ m.filter (fun c => decide (a + data.length ≤ c.1))

end Sys2Proof.Machine
end

