-- ==== Sys2Proof/Machine/Window.lean ====
section
/-! DEFINITION. The sliding_window_buffer block: allocation, update and reads (45_window.md R400 to R412). -/

namespace Sys2Proof.Machine

/-- Whether this allocation fails: a draw when `allocMayFail`, never otherwise (45_window.md R402; log 6). -/
def allocationFails (s : State) : Bool := s.allocMayFail && Config.allocFails s.allocDraws

/-- Allocate() (R402): the window gets its size, or the mode becomes MEM and it has none. -/
def allocate (s : State) : State :=
  let s' := { s with allocDraws := s.allocDraws + (if s.allocMayFail then 1 else 0) }
  if allocationFails s then { s' with mode := .mem }
  else { s' with win := { s.win with wsize := 2 ^ s.wbits, wnext := 0, whave := 0 } }

/-- The circular write of WindowUpdate into a window that has a size (R403). -/
def Window.append (w : Window) (data : List Byte) : Window :=
  let c := data.length
  if w.wsize ≤ c then
    { w with ram := Memory.write w.ram 0 (data.drop (c - w.wsize)), wnext := 0, whave := w.wsize }
  else
    let d := min (w.wsize - w.wnext) c
    let ram := Memory.write w.ram w.wnext (data.take d)
    if 0 < c - d then
      { w with ram := Memory.write ram 0 (data.drop d), wnext := c - d, whave := w.wsize }
    else
      { w with
        ram := ram
        wnext := if w.wnext + d = w.wsize then 0 else w.wnext + d
        whave := if w.whave < w.wsize then w.whave + d else w.whave }

/-- The window an update writes into: the allocated one, or a fresh one of size `2^wbits` (R402). -/
def freshWindow (s : State) : Window := if s.win.wsize = 0 then ⟨s.win.ram, 2 ^ s.wbits, 0, 0⟩ else s.win

/-- The window has no size after an update that needed it: its allocation failed (R402). -/
def windowMissing (s : State) : Bool := s.win.wsize == 0

/-- WindowUpdate(data) (R403). Where the allocation fails nothing is written and `windowMissing` is true after. -/
def windowUpdate (data : List Byte) (s : State) : State :=
  let s' := if s.win.wsize = 0 then allocate s else s
  if windowMissing s' then s' else { s' with win := s'.win.append data }

/-- The window byte `k` positions back from the write position (R406). -/
def Window.back (w : Window) (k : Nat) : Byte :=
  Memory.read w.ram (((w.wnext : Int) - (k : Int)) % (w.wsize : Int)).toNat

/-- Hist(d) (R406), for `1 <= d <= len(out_buf) + whave` (log 19). -/
def hist (d : Nat) (s : State) : Byte :=
  if d ≤ s.outBuf.length then s.outBuf.getD (s.outBuf.length - d) 0
  else s.win.back (d - s.outBuf.length)

/-- The bytes a back-reference may reach: `len(out_buf) + whave` (R407). -/
def reach (s : State) : Nat := s.outBuf.length + s.win.whave

end Sys2Proof.Machine
end

