-- ==== Sys2Proof/Machine/Ops.lean ====
section
/-! DEFINITION. The operations the mode rules and commands share: goto, the data-error entry (60_exceptions.md R482) and the resets that are the return from it (70_reset_and_hazards.md R531, R532), MemWrite (20_memory.md R83), LEAVE with the call epilogue (46_host.md R450), and the replies of the commands. -/

namespace Sys2Proof.Machine

/-- The outcome of one step of this core. -/
abbrev Result := Host.Outcome State Fault Refusal

/-- `goto M` (00_scope.md R9). -/
def State.goto (m : Mode) (s : State) : State := { s with mode := m }

/-- The bit stream after `f` (40_bitstream.md). -/
def State.mapSrc (f : BitStream → BitStream) (s : State) : State := { s with src := f s.src }

/-- DROP(n) (40_bitstream.md R164). -/
def State.dropBits (n : Nat) (s : State) : State := s.mapSrc (BitStream.drop n)

/-- INITBITS() (40_bitstream.md R166). -/
def State.initBits (s : State) : State := s.mapSrc BitStream.initBits

/-- A field of the header record is written only when a record is registered (41_wrapper.md R208). -/
def State.mapHead (f : HeaderRecord → HeaderRecord) (s : State) : State := { s with head := s.head.map f }

/-- The header CRC takes in the bytes of a header field (10_state.md R40). -/
def State.crcHeader (bytes : List Byte) (s : State) : State := { s with hcheck := crc32Update s.hcheck bytes }

/-! ### The data-error entry and the return from it -/

/-- `raise DataError(Ek)` (60_exceptions.md R482): `msg` and `mode` are written and nothing else; control goes to the
mode loop, which leaves with DATA_ERROR. -/
def State.raise (e : Msg) (s : State) : State := { s with msg := e, mode := .bad }

/-- RESET_KEEP (70_reset_and_hazards.md R531). Window, `wrap` and `wbits` are kept; the scratch fields, which R52
calls unspecified, keep their values (DESIGN CHOICE, log 4). -/
def resetKeep (s : State) : State :=
  { s with
    totalIn := 0
    totalOut := 0
    total := 0
    msg := .e0
    check := checkSeed s.wrap
    mode := .head
    last := false
    havedict := false
    fmt := .unknown
    gflg := 0
    hcheck := 0
    head := none
    src := { s.src with hold := 0, bits := 0 } }

/-- The window is discarded: its sizes become 0; its contents, unspecified after, are left (70_reset_and_hazards.md
R532, 45_window.md R411; log 4). -/
def discardWindow (s : State) : State := { s with win := { s.win with wsize := 0, whave := 0, wnext := 0 } }

/-- RESET_FULL (70_reset_and_hazards.md R532). -/
def resetFull (s : State) : State := resetKeep (discardWindow s)

/-! ### Output -/

/-- MemWrite(out, 1, v) (20_memory.md R83). -/
def memWrite (v : Byte) (s : State) : State :=
  { s with
    outBuf := s.outBuf ++ [v]
    left := s.left - 1
    check := if s.wrap = .none then s.check else dataUpdate s.fmt s.check [v] }

/-- MemWrite of each byte in order (20_memory.md R84). -/
def memWriteAll (data : List Byte) (s : State) : State := data.foldl (fun t v => memWrite v t) s

/-- `repeat n times: MemWrite(out, 1, Hist(d))`, each read after the write before it (45_window.md R408). -/
def copyBack (d : Nat) : Nat → State → State
  | 0, s => s
  | n + 1, s => copyBack d n (memWrite (hist d s) s)

/-! ### The end of a call and of a command -/

/-- The call returns: the host gets the status, the consumed count and the produced bytes, and the call's input and
output are gone (46_host.md R451, 10_state.md R49). -/
def endCall (st : Status) (s : State) : State :=
  { s with
    running := false
    reply := some ⟨st, s.src.taken, s.outBuf⟩
    src := { s.src with input := [], taken := 0 }
    left := 0
    outBuf := [] }

/-- The totals take in the call (46_host.md R450); they wrap (10_state.md R41). -/
def addTotals (s : State) : State :=
  { s with
    totalIn := s.totalIn + BitVec.ofNat 64 s.src.taken
    totalOut := s.totalOut + BitVec.ofNat 64 s.outBuf.length
    total := s.total + BitVec.ofNat 32 s.outBuf.length }

/-- `LEAVE(r)`: the mode loop ends with `r` and the epilogue runs (46_host.md R450). -/
def leave (r : Status) (s : State) : State :=
  let s' := if s.outBuf = [] then s else windowUpdate s.outBuf s
  if s.outBuf ≠ [] ∧ windowMissing s' then endCall .memError s'
  else endCall (callStatus r s.src.taken s.outBuf.length s.flush) (addTotals s')

/-- Suspension: the input ended inside an element (40_bitstream.md R167). -/
def suspend (s : State) : State := leave .ok s

/-- A command that is not a decode call returns its status (46_host.md R440). -/
def answer (st : Status) (s : State) : State := { s with reply := some ⟨st, 0, []⟩ }

end Sys2Proof.Machine
end

