-- ==== Sys2Proof/Machine/Blocks.lean ====
section
/-! DEFINITION. The meanings of the block elements (42_blocks.md R250 to R260). Each is handed the state in which fetch has pulled the element's bits (they are held; a meaning drops them) or, for STORED_DATA, has taken its bytes from the input. -/

namespace Sys2Proof.Machine

/-- A TREES call returns once the block's mode is set (R251, R252, R258; 46_host.md R449). -/
def stopForTrees (s : State) : State := if s.flush = .trees then leave .ok s else s

/-- TYPEDO once the 3 header bits are held (R251): BFINAL sets `last` and the bits are dropped. -/
def blockHeader (final : Bool) (s : State) : State := { s with last := final }.dropBits 3

/-- BLOCK_STORED (R251). -/
def execBlockStored (final : Bool) (s : State) : Result := .next ((blockHeader final s).goto .stored)

/-- BLOCK_FIXED (R251, R259). -/
def execBlockFixed (final : Bool) (s : State) : Result :=
  .next (stopForTrees ({ blockHeader final s with lcode := fixedLl, dcode := fixedDist }.goto .len_))

/-- BLOCK_DYNAMIC (R251). -/
def execBlockDynamic (final : Bool) (s : State) : Result := .next ((blockHeader final s).goto .table)

/-- BLOCK_RESERVED (R251): E6, after the 3 bits. -/
def execBlockReserved (final : Bool) (s : State) : Result := .next ((blockHeader final s).raise .e6)

/-- STORED_LEN_NLEN (R252). -/
def execStoredLenNlen (len nlen : U16) (s : State) : Result :=
  .next <|
    if len ≠ nlen ^^^ 0xFFFF then s.raise .e7
    else stopForTrees ({ s with length := len.toNat }.initBits.goto .copy_)

/-- STORED_DATA (R254): a run of stored bytes goes to the output; the mode stays COPY. -/
def execStoredData (data : List Byte) (s : State) : Result :=
  .next { memWriteAll data s with length := s.length - data.length }

/-- DYN_COUNTS (R255): E8 after the 14 bits. -/
def execDynCounts (hlit hdist : BitVec 5) (hclen : BitVec 4) (s : State) : Result :=
  let s1 := { s with nlen := nlenOf hlit, ndist := ndistOf hdist, ncode := ncodeOf hclen }.dropBits 14
  .next (if 286 < nlenOf hlit ∨ 30 < ndistOf hdist then s1.raise .e8 else { s1 with ncnt := 0 }.goto .lenlens)

/-- `lens[i] <- v`. -/
def State.setLens (i : Nat) (v : BitVec 4) (s : State) : State := { s with lens := s.lens.set i v }

/-- DYN_CLLEN (R256): the length of the next code-length symbol in ORDER. -/
def execDynCllen (len : BitVec 3) (s : State) : Result :=
  .next { (s.dropBits 3).setLens (clOrder.getD s.ncnt 0) (len.setWidth 4) with ncnt := s.ncnt + 1 }

/-- `lens[ORDER[i]] <- 0` for the positions `i` listed (R256). -/
def zeroClLens (positions : List Nat) (s : State) : State :=
  positions.foldl (fun t i => t.setLens (clOrder.getD i 0) 0) s

/-- `lens[lo .. lo+n-1]` as numbers. -/
def lensSlice (lo n : Nat) (s : State) : List Nat := ((s.lens.drop lo).take n).map BitVec.toNat

/-- LENLENS once the `ncode` lengths are read (R256): the other symbols get length 0 and the code-length code is
built. -/
def buildClTable (s : State) : State :=
  let s1 := { zeroClLens ((List.range 19).drop s.ncnt) s with ncnt := max s.ncnt 19 }
  match buildClCode (lensSlice 0 19 s1) with
  | none => s1.raise .e9
  | some c => { s1 with clcode := c, ncnt := 0 }.goto .codelens

/-- `lens[ncnt] <- len; ncnt <- ncnt + 1`, `n` times (R257). -/
def pushLens (len : BitVec 4) : Nat → State → State
  | 0, s => s
  | n + 1, s => pushLens len n { s.setLens s.ncnt len with ncnt := s.ncnt + 1 }

/-- CL_LENGTH (R257, v < 16). -/
def execClLength (cw : Codeword) (len : BitVec 4) (s : State) : Result :=
  .next (pushLens len 1 (s.dropBits cw.len))

/-- The common end of the repeat symbols (R257): E10 past the end, else `cnt` lengths `len`. -/
def repeatLens (len : BitVec 4) (cnt : Nat) (s : State) : State :=
  if s.nlen + s.ndist < s.ncnt + cnt then s.raise .e10 else pushLens len cnt s

/-- CL_REPEAT_PREV (R257, v = 16): E10 with no length before it, its extra bits not yet dropped. -/
def execClRepeatPrev (cw : Codeword) (r : BitVec 2) (s : State) : Result :=
  let s1 := s.dropBits cw.len
  .next <|
    if s.ncnt = 0 then s1.raise .e10
    else repeatLens (s.lens.getD (s.ncnt - 1) 0) (repeatPrevCount r) (s1.dropBits 2)

/-- CL_ZERO_SHORT (R257, v = 17). -/
def execClZeroShort (cw : Codeword) (r : BitVec 3) (s : State) : Result :=
  .next (repeatLens 0 (zeroShortCount r) ((s.dropBits cw.len).dropBits 3))

/-- CL_ZERO_LONG (R257, v = 18). -/
def execClZeroLong (cw : Codeword) (r : BitVec 7) (s : State) : Result :=
  .next (repeatLens 0 (zeroLongCount r) ((s.dropBits cw.len).dropBits 7))

/-- CODELENS once all lengths are read (R258): E11, then E12, then E13. -/
def buildTables (s : State) : State :=
  if s.lens.getD 256 0 = 0 then s.raise .e11
  else
    match buildLlCode (lensSlice 0 s.nlen s) with
    | none => s.raise .e12
    | some l =>
      let s1 := { s with lcode := l }
      match buildDistCode (lensSlice s.nlen s.ndist s) with
      | none => s1.raise .e13
      | some d => stopForTrees ({ s1 with dcode := d }.goto .len_)

end Sys2Proof.Machine
end

