-- ==== Sys2Proof/Machine/HostCommands.lean ====
section
/-! DEFINITION. The meanings of the six host commands (46_host.md R440 to R457). -/

namespace Sys2Proof.Machine

/-- INIT (R441): a new instance, or STREAM_ERROR and no change (R456). -/
def execInit (windowBits : Int) (s : State) : Result :=
  .next <|
    match windowBitsConfig windowBits with
    | none => answer .streamError s
    | some (wrap, wbits) =>
      answer .ok (resetKeep (discardWindow { s with valid := true, wrap := wrap, wbits := wbits }))

/-- RESET (R443), in every mode. -/
def execReset (keep : Bool) (s : State) : Result :=
  .next <|
    if s.valid = false then answer .streamError s
    else answer .ok (if keep then resetKeep s else resetFull s)

/-- The call prologue (R445, R447): a call that starts in TYPE starts in TYPEDO. -/
def startCall (input : List Byte) (availOut : Nat) (flush : Flush) (s : State) : State :=
  { s with
    running := true
    reply := none
    src := { s.src with input := input, taken := 0 }
    left := availOut
    outBuf := []
    flush := flush
    mode := if s.mode = .type then .typedo else s.mode }

/-- INFLATE (R445): it opens a call, whose mode loop is the steps that follow; an argument error answers at once
(R456). -/
def execInflate (input : List Byte) (availOut : Nat) (flush : Byte) (s : State) : Result :=
  .next <|
    if s.valid = false then answer .streamError s
    else
      match flushOfCode flush with
      | none => answer .streamError s
      | some f => startCall input availOut f s

/-- SET_DICTIONARY (R452). -/
def execSetDictionary (dict : List Byte) (s : State) : Result :=
  .next <|
    if s.valid = false ∨ s.mode ≠ .dict then answer .streamError s
    else if adler32Update 1 dict ≠ s.check then answer .dataError s
    else if windowMissing (windowUpdate dict s) then answer .memError (windowUpdate dict s)
    else answer .ok { windowUpdate dict s with havedict := true }

/-- GET_HEADER (R453). -/
def execGetHeader (record : HeaderRecord) (s : State) : Result :=
  .next <|
    if s.valid = false ∨ (s.wrap ≠ .gzip ∧ s.wrap ≠ .auto) ∨ s.mode ≠ .head then answer .streamError s
    else answer .ok { s with head := some { record with done := 0 } }

/-- TEARDOWN (R454): the window and the header record are released and the instance is invalid. -/
def execTeardown (s : State) : Result :=
  .next <|
    if s.valid = false then answer .streamError s
    else answer .ok (discardWindow { s with valid := false, head := none })

end Sys2Proof.Machine
end

