-- ==== Sys2Proof/Machine/Symbols.lean ====
section
/-! DEFINITION. The meanings of the symbol elements (44_symbols.md R350 to R356). Each is handed the state in which fetch has decoded the codeword and dropped it (R350, R353; 43_huffman.md R313) and has pulled the extra bits (they are held; the meaning drops them). The codeword operand therefore leaves the meaning unchanged (log 23). -/

namespace Sys2Proof.Machine

/-- LIT (R356): OK with no output space, else the parked literal is written. -/
def litRule (s : State) : State :=
  if s.left = 0 then leave .ok s else (memWrite (BitVec.ofNat 8 s.length) s).goto .len

/-- MATCH (R355): OK with no output space; E16 for a distance beyond the history; else bytes are copied one by one
until the match or the output space ends. -/
def matchRule (s : State) : State :=
  if s.left = 0 then leave .ok s
  else if reach s < s.offset then s.raise .e16
  else
    { copyBack s.offset (min s.length s.left) s with
      length := s.length - min s.length s.left
      mode := if s.length - min s.length s.left = 0 then .len else s.mode }

/-- The LEN dispatch on a length symbol (R351). -/
def startLength (k : Fin 29) (s : State) : State :=
  { s with length := lengthBase k, extra := lengthExtra k, mode := .lenext }

/-- LENEXT once the extra bits are held with value `x` (R352). -/
def finishLength (x : Nat) (s : State) : State :=
  ({ s with length := s.length + x }.dropBits s.extra).goto .dist

/-- A length element: R351, then R352. -/
def lengthElement (k : Fin 29) (x : Nat) (s : State) : State := finishLength x (startLength k s)

/-- The DIST dispatch on a distance symbol (R353). -/
def startDistance (k : Fin 30) (s : State) : State :=
  { s with offset := distanceBase k, extra := distanceExtra k, mode := .distext }

/-- DISTEXT once the extra bits are held with value `x` (R354), then MATCH (R355). -/
def finishDistance (x : Nat) (s : State) : State :=
  let s1 := { s with offset := s.offset + x }.dropBits s.extra
  if Config.dMax < s1.offset then s1.raise .e16 else matchRule (s1.goto .matched)

/-- A distance element: R353, R354, then MATCH (R355). -/
def distanceElement (k : Fin 30) (x : Nat) (s : State) : State := finishDistance x (startDistance k s)

/-- LITERAL (R351, R356): the byte is parked in `length`, then written. -/
def execLiteral (_cw : Codeword) (v : Byte) (s : State) : Result :=
  .next (litRule { s with length := v.toNat, mode := .lit })

/-- END_OF_BLOCK (R351). -/
def execEndOfBlock (_cw : Codeword) (s : State) : Result := .next (s.goto .type)

/-- LENGTH_257 (R351, R352). -/
def execLength257 (_cw : Codeword) (s : State) : Result := .next (lengthElement 0 0 s)

/-- LENGTH_258 (R351, R352). -/
def execLength258 (_cw : Codeword) (s : State) : Result := .next (lengthElement 1 0 s)

/-- LENGTH_259 (R351, R352). -/
def execLength259 (_cw : Codeword) (s : State) : Result := .next (lengthElement 2 0 s)

/-- LENGTH_260 (R351, R352). -/
def execLength260 (_cw : Codeword) (s : State) : Result := .next (lengthElement 3 0 s)

/-- LENGTH_261 (R351, R352). -/
def execLength261 (_cw : Codeword) (s : State) : Result := .next (lengthElement 4 0 s)

/-- LENGTH_262 (R351, R352). -/
def execLength262 (_cw : Codeword) (s : State) : Result := .next (lengthElement 5 0 s)

/-- LENGTH_263 (R351, R352). -/
def execLength263 (_cw : Codeword) (s : State) : Result := .next (lengthElement 6 0 s)

/-- LENGTH_264 (R351, R352). -/
def execLength264 (_cw : Codeword) (s : State) : Result := .next (lengthElement 7 0 s)

/-- LENGTH_265 (R351, R352). -/
def execLength265 (_cw : Codeword) (x : BitVec 1) (s : State) : Result := .next (lengthElement 8 x.toNat s)

/-- LENGTH_266 (R351, R352). -/
def execLength266 (_cw : Codeword) (x : BitVec 1) (s : State) : Result := .next (lengthElement 9 x.toNat s)

/-- LENGTH_267 (R351, R352). -/
def execLength267 (_cw : Codeword) (x : BitVec 1) (s : State) : Result := .next (lengthElement 10 x.toNat s)

/-- LENGTH_268 (R351, R352). -/
def execLength268 (_cw : Codeword) (x : BitVec 1) (s : State) : Result := .next (lengthElement 11 x.toNat s)

/-- LENGTH_269 (R351, R352). -/
def execLength269 (_cw : Codeword) (x : BitVec 2) (s : State) : Result := .next (lengthElement 12 x.toNat s)

/-- LENGTH_270 (R351, R352). -/
def execLength270 (_cw : Codeword) (x : BitVec 2) (s : State) : Result := .next (lengthElement 13 x.toNat s)

/-- LENGTH_271 (R351, R352). -/
def execLength271 (_cw : Codeword) (x : BitVec 2) (s : State) : Result := .next (lengthElement 14 x.toNat s)

/-- LENGTH_272 (R351, R352). -/
def execLength272 (_cw : Codeword) (x : BitVec 2) (s : State) : Result := .next (lengthElement 15 x.toNat s)

/-- LENGTH_273 (R351, R352). -/
def execLength273 (_cw : Codeword) (x : BitVec 3) (s : State) : Result := .next (lengthElement 16 x.toNat s)

/-- LENGTH_274 (R351, R352). -/
def execLength274 (_cw : Codeword) (x : BitVec 3) (s : State) : Result := .next (lengthElement 17 x.toNat s)

/-- LENGTH_275 (R351, R352). -/
def execLength275 (_cw : Codeword) (x : BitVec 3) (s : State) : Result := .next (lengthElement 18 x.toNat s)

/-- LENGTH_276 (R351, R352). -/
def execLength276 (_cw : Codeword) (x : BitVec 3) (s : State) : Result := .next (lengthElement 19 x.toNat s)

/-- LENGTH_277 (R351, R352). -/
def execLength277 (_cw : Codeword) (x : BitVec 4) (s : State) : Result := .next (lengthElement 20 x.toNat s)

/-- LENGTH_278 (R351, R352). -/
def execLength278 (_cw : Codeword) (x : BitVec 4) (s : State) : Result := .next (lengthElement 21 x.toNat s)

/-- LENGTH_279 (R351, R352). -/
def execLength279 (_cw : Codeword) (x : BitVec 4) (s : State) : Result := .next (lengthElement 22 x.toNat s)

/-- LENGTH_280 (R351, R352). -/
def execLength280 (_cw : Codeword) (x : BitVec 4) (s : State) : Result := .next (lengthElement 23 x.toNat s)

/-- LENGTH_281 (R351, R352). -/
def execLength281 (_cw : Codeword) (x : BitVec 5) (s : State) : Result := .next (lengthElement 24 x.toNat s)

/-- LENGTH_282 (R351, R352). -/
def execLength282 (_cw : Codeword) (x : BitVec 5) (s : State) : Result := .next (lengthElement 25 x.toNat s)

/-- LENGTH_283 (R351, R352). -/
def execLength283 (_cw : Codeword) (x : BitVec 5) (s : State) : Result := .next (lengthElement 26 x.toNat s)

/-- LENGTH_284 (R351, R352). -/
def execLength284 (_cw : Codeword) (x : BitVec 5) (s : State) : Result := .next (lengthElement 27 x.toNat s)

/-- LENGTH_285 (R351, R352). -/
def execLength285 (_cw : Codeword) (s : State) : Result := .next (lengthElement 28 0 s)

/-- LL_INVALID (R351): E14; the codeword has been dropped (43_huffman.md R314). -/
def execLlInvalid (_cw : Codeword) (s : State) : Result := .next (s.raise .e14)

/-- DISTANCE_0 (R353, R354, R355). -/
def execDistance0 (_cw : Codeword) (s : State) : Result := .next (distanceElement 0 0 s)

/-- DISTANCE_1 (R353, R354, R355). -/
def execDistance1 (_cw : Codeword) (s : State) : Result := .next (distanceElement 1 0 s)

/-- DISTANCE_2 (R353, R354, R355). -/
def execDistance2 (_cw : Codeword) (s : State) : Result := .next (distanceElement 2 0 s)

/-- DISTANCE_3 (R353, R354, R355). -/
def execDistance3 (_cw : Codeword) (s : State) : Result := .next (distanceElement 3 0 s)

/-- DISTANCE_4 (R353, R354, R355). -/
def execDistance4 (_cw : Codeword) (x : BitVec 1) (s : State) : Result := .next (distanceElement 4 x.toNat s)

/-- DISTANCE_5 (R353, R354, R355). -/
def execDistance5 (_cw : Codeword) (x : BitVec 1) (s : State) : Result := .next (distanceElement 5 x.toNat s)

/-- DISTANCE_6 (R353, R354, R355). -/
def execDistance6 (_cw : Codeword) (x : BitVec 2) (s : State) : Result := .next (distanceElement 6 x.toNat s)

/-- DISTANCE_7 (R353, R354, R355). -/
def execDistance7 (_cw : Codeword) (x : BitVec 2) (s : State) : Result := .next (distanceElement 7 x.toNat s)

/-- DISTANCE_8 (R353, R354, R355). -/
def execDistance8 (_cw : Codeword) (x : BitVec 3) (s : State) : Result := .next (distanceElement 8 x.toNat s)

/-- DISTANCE_9 (R353, R354, R355). -/
def execDistance9 (_cw : Codeword) (x : BitVec 3) (s : State) : Result := .next (distanceElement 9 x.toNat s)

/-- DISTANCE_10 (R353, R354, R355). -/
def execDistance10 (_cw : Codeword) (x : BitVec 4) (s : State) : Result := .next (distanceElement 10 x.toNat s)

/-- DISTANCE_11 (R353, R354, R355). -/
def execDistance11 (_cw : Codeword) (x : BitVec 4) (s : State) : Result := .next (distanceElement 11 x.toNat s)

/-- DISTANCE_12 (R353, R354, R355). -/
def execDistance12 (_cw : Codeword) (x : BitVec 5) (s : State) : Result := .next (distanceElement 12 x.toNat s)

/-- DISTANCE_13 (R353, R354, R355). -/
def execDistance13 (_cw : Codeword) (x : BitVec 5) (s : State) : Result := .next (distanceElement 13 x.toNat s)

/-- DISTANCE_14 (R353, R354, R355). -/
def execDistance14 (_cw : Codeword) (x : BitVec 6) (s : State) : Result := .next (distanceElement 14 x.toNat s)

/-- DISTANCE_15 (R353, R354, R355). -/
def execDistance15 (_cw : Codeword) (x : BitVec 6) (s : State) : Result := .next (distanceElement 15 x.toNat s)

/-- DISTANCE_16 (R353, R354, R355). -/
def execDistance16 (_cw : Codeword) (x : BitVec 7) (s : State) : Result := .next (distanceElement 16 x.toNat s)

/-- DISTANCE_17 (R353, R354, R355). -/
def execDistance17 (_cw : Codeword) (x : BitVec 7) (s : State) : Result := .next (distanceElement 17 x.toNat s)

/-- DISTANCE_18 (R353, R354, R355). -/
def execDistance18 (_cw : Codeword) (x : BitVec 8) (s : State) : Result := .next (distanceElement 18 x.toNat s)

/-- DISTANCE_19 (R353, R354, R355). -/
def execDistance19 (_cw : Codeword) (x : BitVec 8) (s : State) : Result := .next (distanceElement 19 x.toNat s)

/-- DISTANCE_20 (R353, R354, R355). -/
def execDistance20 (_cw : Codeword) (x : BitVec 9) (s : State) : Result := .next (distanceElement 20 x.toNat s)

/-- DISTANCE_21 (R353, R354, R355). -/
def execDistance21 (_cw : Codeword) (x : BitVec 9) (s : State) : Result := .next (distanceElement 21 x.toNat s)

/-- DISTANCE_22 (R353, R354, R355). -/
def execDistance22 (_cw : Codeword) (x : BitVec 10) (s : State) : Result := .next (distanceElement 22 x.toNat s)

/-- DISTANCE_23 (R353, R354, R355). -/
def execDistance23 (_cw : Codeword) (x : BitVec 10) (s : State) : Result := .next (distanceElement 23 x.toNat s)

/-- DISTANCE_24 (R353, R354, R355). -/
def execDistance24 (_cw : Codeword) (x : BitVec 11) (s : State) : Result := .next (distanceElement 24 x.toNat s)

/-- DISTANCE_25 (R353, R354, R355). -/
def execDistance25 (_cw : Codeword) (x : BitVec 11) (s : State) : Result := .next (distanceElement 25 x.toNat s)

/-- DISTANCE_26 (R353, R354, R355). -/
def execDistance26 (_cw : Codeword) (x : BitVec 12) (s : State) : Result := .next (distanceElement 26 x.toNat s)

/-- DISTANCE_27 (R353, R354, R355). -/
def execDistance27 (_cw : Codeword) (x : BitVec 12) (s : State) : Result := .next (distanceElement 27 x.toNat s)

/-- DISTANCE_28 (R353, R354, R355). -/
def execDistance28 (_cw : Codeword) (x : BitVec 13) (s : State) : Result := .next (distanceElement 28 x.toNat s)

/-- DISTANCE_29 (R353, R354, R355). -/
def execDistance29 (_cw : Codeword) (x : BitVec 13) (s : State) : Result := .next (distanceElement 29 x.toNat s)

/-- DIST_INVALID (R353): E15; the codeword has been dropped (43_huffman.md R314). -/
def execDistInvalid (_cw : Codeword) (s : State) : Result := .next (s.raise .e15)

end Sys2Proof.Machine
end

