-- ==== Sys2Proof/Machine/Wrapper.lean ====
section
/-! DEFINITION. The meanings of the wrapper elements (41_wrapper.md R190 to R208). Each is handed the state in which fetch has pulled the element's bits (they are held) or, for EXTRA, NAME and COMMENT, has taken its bytes from the input. -/

namespace Sys2Proof.Machine

/-- The whole-byte field just read is consumed (INITBITS) and the mode moves on. -/
def State.consumeField (m : Mode) (s : State) : State := s.initBits.goto m

/-- R193 once the header check, CM and CINFO are good and `wbits` is known. -/
def zlibAccept (flg : Byte) (s : State) : State :=
  { s with fmt := .zlib, check := 1 }.consumeField (if zlibFdict flg then .dictid else .type)

/-- ZLIB_HEADER (R193). -/
def execZlibHeader (cmf flg : Byte) (s : State) : Result :=
  let s1 := s.mapHead (fun r => { r with done := -1 })
  let s2 := if s.wbits = 0 then { s1 with wbits := zlibWindowBits cmf } else s1
  .next <|
    if s.wrap = .gzip ∨ zlibCheckOk cmf flg = false then s1.raise .e1
    else if zlibCm cmf ≠ 8 then s1.raise .e2
    else if 15 < zlibWindowBits cmf then s1.raise .e3
    else if s2.wbits < zlibWindowBits cmf then s2.raise .e3
    else zlibAccept flg s2

/-- ZLIB_DICTID (R202): `check` holds the dictionary id until DICT. -/
def execZlibDictid (id : U32) (s : State) : Result :=
  .next ({ s with check := id }.consumeField .dict)

/-- The trailer check of CHECK (R205). -/
def checkTrailer (v : U32) (s : State) : State :=
  if v ≠ s.check then s.raise .e17 else s.consumeField .length

/-- ZLIB_ADLER32 (R205). -/
def execZlibAdler32 (v : U32) (s : State) : Result := .next (checkTrailer v s)

/-- GZIP_MAGIC (R192). -/
def execGzipMagic (s : State) : Result :=
  .next ({ s with
    wbits := if s.wbits = 0 then 15 else s.wbits
    fmt := .gzip
    hcheck := crc32Update 0 [0x1F, 0x8B] }.consumeField .flags)

/-- GZIP_CM_FLG (R194). -/
def execGzipCmFlg (cm flg : Byte) (s : State) : Result :=
  .next <|
    if cm ≠ 8 then s.raise .e2
    else if freserved flg then s.raise .e4
    else
      ((({ s with gflg := flg }).mapHead (fun r => { r with text := ftext flg })).crcHeader [cm, flg]).consumeField
        .time

/-- GZIP_MTIME (R195). -/
def execGzipMtime (t : U32) (s : State) : Result :=
  .next (((s.mapHead (fun r => { r with time := t })).crcHeader (le32 t)).consumeField .os)

/-- GZIP_XFL_OS (R196). -/
def execGzipXflOs (xfl os : Byte) (s : State) : Result :=
  .next (((s.mapHead (fun r => { r with xflags := xfl, os := os })).crcHeader [xfl, os]).consumeField .exlen)

/-- GZIP_XLEN (R197, FEXTRA set). -/
def execGzipXlen (n : U16) (s : State) : Result :=
  .next (((({ s with length := n.toNat }).mapHead (fun r => { r with extraLen := n, extra := some [] })).crcHeader
    (le16 n)).consumeField .extra)

/-- Append to a captured field up to its capacity; bytes beyond are not kept (R198, R199). -/
def captureUpTo (cap : Nat) (old : Option (List Byte)) (data : List Byte) : Option (List Byte) :=
  some (old.getD [] ++ data.take (cap - (old.getD []).length))

/-- GZIP_EXTRA (R198): a run of extra-field bytes; the field is done when `length` reaches 0. -/
def execGzipExtra (data : List Byte) (s : State) : Result :=
  let s1 := (s.mapHead (fun r => { r with extra := captureUpTo r.extraMax r.extra data })).crcHeader data
  .next { s1 with
    length := s.length - data.length
    mode := if s.length - data.length = 0 then .name else s.mode }

/-- The characters of a STRZ run: its bytes before the NUL. -/
def strzChars (data : List Byte) : List Byte := data.takeWhile (fun b => b != 0)

/-- The run ends the string: it holds the NUL. -/
def strzEnded (data : List Byte) : Bool := data.any (fun b => b == 0)

/-- GZIP_NAME (R199): a run of name bytes; the name is done when the run holds the NUL. -/
def execGzipName (data : List Byte) (s : State) : Result :=
  let s1 :=
    (s.mapHead (fun r => { r with name := captureUpTo r.nameMax r.name (strzChars data) })).crcHeader data
  .next (if strzEnded data then s1.goto .comment else s1)

/-- GZIP_COMMENT (R200). -/
def execGzipComment (data : List Byte) (s : State) : Result :=
  let s1 :=
    (s.mapHead (fun r => { r with comment := captureUpTo r.commentMax r.comment (strzChars data) })).crcHeader data
  .next (if strzEnded data then s1.goto .hcrc else s1)

/-- The end of the gzip header (R201): the record is complete, `check` is seeded for the data. -/
def finishGzipHeader (s : State) : State :=
  ({ s with check := 0 }.mapHead (fun r => { r with hcrc := fhcrc s.gflg, done := 1 })).goto .type

/-- GZIP_HCRC (R201, FHCRC set). -/
def execGzipHcrc (crc : U16) (s : State) : Result :=
  .next (if crc ≠ s.hcheck.setWidth 16 then s.raise .e5 else finishGzipHeader s.initBits)

/-- GZIP_CRC32 (R205). -/
def execGzipCrc32 (v : U32) (s : State) : Result := .next (checkTrailer v s)

/-- The output count of the stream so far: `total + len(out_buf)` mod 2^32 (R206). -/
def outputCount (s : State) : U32 := s.total + BitVec.ofNat 32 s.outBuf.length

/-- GZIP_ISIZE (R206). -/
def execGzipIsize (n : U32) (s : State) : Result :=
  .next (if n ≠ outputCount s then s.raise .e18 else s.consumeField .done)

end Sys2Proof.Machine
end

