-- ==== Sys2Proof/Machine/Dispatch.lean ====
section
/-! DEFINITION. `exec`: one arm per instruction, each one direct call of its meaning. -/

namespace Sys2Proof.Machine

def exec (i : Instr) (s : State) : Host.Outcome State Fault Refusal :=
  match i with
  | .zlibHeader cmf flg => Sys2Proof.Machine.execZlibHeader cmf flg s
  | .zlibDictid id => Sys2Proof.Machine.execZlibDictid id s
  | .zlibAdler32 v => Sys2Proof.Machine.execZlibAdler32 v s
  | .gzipMagic => Sys2Proof.Machine.execGzipMagic s
  | .gzipCmFlg cm flg => Sys2Proof.Machine.execGzipCmFlg cm flg s
  | .gzipMtime t => Sys2Proof.Machine.execGzipMtime t s
  | .gzipXflOs xfl os => Sys2Proof.Machine.execGzipXflOs xfl os s
  | .gzipXlen n => Sys2Proof.Machine.execGzipXlen n s
  | .gzipExtra data => Sys2Proof.Machine.execGzipExtra data s
  | .gzipName data => Sys2Proof.Machine.execGzipName data s
  | .gzipComment data => Sys2Proof.Machine.execGzipComment data s
  | .gzipHcrc crc => Sys2Proof.Machine.execGzipHcrc crc s
  | .gzipCrc32 v => Sys2Proof.Machine.execGzipCrc32 v s
  | .gzipIsize n => Sys2Proof.Machine.execGzipIsize n s
  | .blockStored final => Sys2Proof.Machine.execBlockStored final s
  | .blockFixed final => Sys2Proof.Machine.execBlockFixed final s
  | .blockDynamic final => Sys2Proof.Machine.execBlockDynamic final s
  | .blockReserved final => Sys2Proof.Machine.execBlockReserved final s
  | .storedLenNlen len nlen => Sys2Proof.Machine.execStoredLenNlen len nlen s
  | .storedData data => Sys2Proof.Machine.execStoredData data s
  | .dynCounts hlit hdist hclen => Sys2Proof.Machine.execDynCounts hlit hdist hclen s
  | .dynCllen len => Sys2Proof.Machine.execDynCllen len s
  | .clLength cw len => Sys2Proof.Machine.execClLength cw len s
  | .clRepeatPrev cw r => Sys2Proof.Machine.execClRepeatPrev cw r s
  | .clZeroShort cw r => Sys2Proof.Machine.execClZeroShort cw r s
  | .clZeroLong cw r => Sys2Proof.Machine.execClZeroLong cw r s
  | .literal cw v => Sys2Proof.Machine.execLiteral cw v s
  | .endOfBlock cw => Sys2Proof.Machine.execEndOfBlock cw s
  | .length257 cw => Sys2Proof.Machine.execLength257 cw s
  | .length258 cw => Sys2Proof.Machine.execLength258 cw s
  | .length259 cw => Sys2Proof.Machine.execLength259 cw s
  | .length260 cw => Sys2Proof.Machine.execLength260 cw s
  | .length261 cw => Sys2Proof.Machine.execLength261 cw s
  | .length262 cw => Sys2Proof.Machine.execLength262 cw s
  | .length263 cw => Sys2Proof.Machine.execLength263 cw s
  | .length264 cw => Sys2Proof.Machine.execLength264 cw s
  | .length265 cw x => Sys2Proof.Machine.execLength265 cw x s
  | .length266 cw x => Sys2Proof.Machine.execLength266 cw x s
  | .length267 cw x => Sys2Proof.Machine.execLength267 cw x s
  | .length268 cw x => Sys2Proof.Machine.execLength268 cw x s
  | .length269 cw x => Sys2Proof.Machine.execLength269 cw x s
  | .length270 cw x => Sys2Proof.Machine.execLength270 cw x s
  | .length271 cw x => Sys2Proof.Machine.execLength271 cw x s
  | .length272 cw x => Sys2Proof.Machine.execLength272 cw x s
  | .length273 cw x => Sys2Proof.Machine.execLength273 cw x s
  | .length274 cw x => Sys2Proof.Machine.execLength274 cw x s
  | .length275 cw x => Sys2Proof.Machine.execLength275 cw x s
  | .length276 cw x => Sys2Proof.Machine.execLength276 cw x s
  | .length277 cw x => Sys2Proof.Machine.execLength277 cw x s
  | .length278 cw x => Sys2Proof.Machine.execLength278 cw x s
  | .length279 cw x => Sys2Proof.Machine.execLength279 cw x s
  | .length280 cw x => Sys2Proof.Machine.execLength280 cw x s
  | .length281 cw x => Sys2Proof.Machine.execLength281 cw x s
  | .length282 cw x => Sys2Proof.Machine.execLength282 cw x s
  | .length283 cw x => Sys2Proof.Machine.execLength283 cw x s
  | .length284 cw x => Sys2Proof.Machine.execLength284 cw x s
  | .length285 cw => Sys2Proof.Machine.execLength285 cw s
  | .llInvalid cw => Sys2Proof.Machine.execLlInvalid cw s
  | .distance0 cw => Sys2Proof.Machine.execDistance0 cw s
  | .distance1 cw => Sys2Proof.Machine.execDistance1 cw s
  | .distance2 cw => Sys2Proof.Machine.execDistance2 cw s
  | .distance3 cw => Sys2Proof.Machine.execDistance3 cw s
  | .distance4 cw x => Sys2Proof.Machine.execDistance4 cw x s
  | .distance5 cw x => Sys2Proof.Machine.execDistance5 cw x s
  | .distance6 cw x => Sys2Proof.Machine.execDistance6 cw x s
  | .distance7 cw x => Sys2Proof.Machine.execDistance7 cw x s
  | .distance8 cw x => Sys2Proof.Machine.execDistance8 cw x s
  | .distance9 cw x => Sys2Proof.Machine.execDistance9 cw x s
  | .distance10 cw x => Sys2Proof.Machine.execDistance10 cw x s
  | .distance11 cw x => Sys2Proof.Machine.execDistance11 cw x s
  | .distance12 cw x => Sys2Proof.Machine.execDistance12 cw x s
  | .distance13 cw x => Sys2Proof.Machine.execDistance13 cw x s
  | .distance14 cw x => Sys2Proof.Machine.execDistance14 cw x s
  | .distance15 cw x => Sys2Proof.Machine.execDistance15 cw x s
  | .distance16 cw x => Sys2Proof.Machine.execDistance16 cw x s
  | .distance17 cw x => Sys2Proof.Machine.execDistance17 cw x s
  | .distance18 cw x => Sys2Proof.Machine.execDistance18 cw x s
  | .distance19 cw x => Sys2Proof.Machine.execDistance19 cw x s
  | .distance20 cw x => Sys2Proof.Machine.execDistance20 cw x s
  | .distance21 cw x => Sys2Proof.Machine.execDistance21 cw x s
  | .distance22 cw x => Sys2Proof.Machine.execDistance22 cw x s
  | .distance23 cw x => Sys2Proof.Machine.execDistance23 cw x s
  | .distance24 cw x => Sys2Proof.Machine.execDistance24 cw x s
  | .distance25 cw x => Sys2Proof.Machine.execDistance25 cw x s
  | .distance26 cw x => Sys2Proof.Machine.execDistance26 cw x s
  | .distance27 cw x => Sys2Proof.Machine.execDistance27 cw x s
  | .distance28 cw x => Sys2Proof.Machine.execDistance28 cw x s
  | .distance29 cw x => Sys2Proof.Machine.execDistance29 cw x s
  | .distInvalid cw => Sys2Proof.Machine.execDistInvalid cw s
  | .init windowBits => Sys2Proof.Machine.execInit windowBits s
  | .reset keep => Sys2Proof.Machine.execReset keep s
  | .inflate input availOut flush => Sys2Proof.Machine.execInflate input availOut flush s
  | .setDictionary dict => Sys2Proof.Machine.execSetDictionary dict s
  | .getHeader record => Sys2Proof.Machine.execGetHeader record s
  | .teardown => Sys2Proof.Machine.execTeardown s

end Sys2Proof.Machine
end

