-- ==== Sys2Proof/Machine/ModeLoop.lean ====
section
/-! DEFINITION. One iteration of the mode loop (46_host.md R448): which element the mode reads, or what the mode does where it reads none; and what the input's end inside an element leaves. -/

namespace Sys2Proof.Machine

/-- What the mode loop does next: read an element, or move by itself. -/
inductive Action where
  | read (ctx : Context)
  | move (r : Result)
deriving Repr

/-- DICT (41_wrapper.md R203). -/
def dictRule (s : State) : State :=
  if s.havedict then { s with check := 1 }.goto .type else leave .needDict s

/-- TYPE (42_blocks.md R250). -/
def typeRule (s : State) : State :=
  if s.flush = .block ∨ s.flush = .trees then leave .ok s else s.goto .typedo

/-- LENEXT resumed by a later call (44_symbols.md R352). -/
def resumeLength (s : State) : Result :=
  match s.src.need s.extra with
  | .held q => .next (finishLength (q.peekBits s.extra) { s with src := q })
  | .starved q => .next (suspend { s with src := q })
  | .overflow => .fault .accumulatorOverflow

/-- DISTEXT resumed by a later call (44_symbols.md R354). -/
def resumeDistance (s : State) : Result :=
  match s.src.need s.extra with
  | .held q => .next (finishDistance (q.peekBits s.extra) { s with src := q })
  | .starved q => .next (suspend { s with src := q })
  | .overflow => .fault .accumulatorOverflow

/-- The rule of the current mode (46_host.md R448's table). LEN always takes the slow path (44_symbols.md R350; log
17). -/
def action (s : State) : Action :=
  match s.mode with
  | .head => if s.wrap = .none then .move (.next (s.goto .typedo)) else .read (.head s.wrap)
  | .flags => .read .flags
  | .time => .read .time
  | .os => .read .os
  | .exlen =>
    if fextra s.gflg then .read .xlen else .move (.next ((s.mapHead (fun r => { r with extra := none })).goto .extra))
  | .extra =>
    if fextra s.gflg ∧ 0 < s.length then .read (.extra s.length)
    else .move (.next ({ s with length := 0 }.goto .name))
  | .name =>
    if fname s.gflg then .read .name
    else .move (.next ((s.mapHead (fun r => { r with name := none })).goto .comment))
  | .comment =>
    if fcomment s.gflg then .read .comment
    else .move (.next ((s.mapHead (fun r => { r with comment := none })).goto .hcrc))
  | .hcrc => if fhcrc s.gflg then .read .hcrc else .move (.next (finishGzipHeader s))
  | .dictid => .read .dictid
  | .dict => .move (.next (dictRule s))
  | .type => .move (.next (typeRule s))
  | .typedo => if s.last then .move (.next ((s.mapSrc BitStream.byteBits).goto .check)) else .read .blockHeader
  | .stored => .read .storedLen
  | .copy_ => .move (.next (s.goto .copy))
  | .copy =>
    if s.length = 0 then .move (.next (s.goto .type))
    else if s.left = 0 then .move (.next (leave .ok s))
    else .read (.storedData (min s.length s.left))
  | .table => .read .dynCounts
  | .lenlens => if s.ncnt < s.ncode then .read .clLen else .move (.next (buildClTable s))
  | .codelens =>
    if s.ncnt < s.nlen + s.ndist then .read (.codeLengths s.clcode) else .move (.next (buildTables s))
  | .len_ => .move (.next (s.goto .len))
  | .len => .read (.litLen s.lcode)
  | .lenext => .move (resumeLength s)
  | .dist => .read (.distance s.dcode)
  | .distext => .move (resumeDistance s)
  | .matched => .move (.next (matchRule s))
  | .lit => .move (.next (litRule s))
  | .check =>
    if s.wrap = .none then .move (.next (s.goto .length))
    else if s.fmt = .gzip then .read .crc32
    else .read .adler32
  | .length =>
    if s.wrap ≠ .none ∧ s.fmt = .gzip then .read .isize else .move (.next (s.goto .done))
  | .done => .move (.next (leave .streamEnd s))
  | .bad => .move (.next (leave .dataError s))
  | .mem => .move (.next (leave .memError s))

/-- The input ended inside an element (40_bitstream.md R167): the bits pulled are kept, a length or distance symbol
already decoded leaves its mode in LENEXT or DISTEXT, and the call suspends. -/
def starve (p : Option Pending) (q : BitStream) (s : State) : State :=
  let s1 := { s with src := q }
  match p with
  | none => suspend s1
  | some (.length k) => suspend (startLength k s1)
  | some (.distance k) => suspend (startDistance k s1)

/-- The mode-loop position in which the next element is a table word of mode `m`, presented alone: a call is in
progress whose whole input is the word (log 15, 16). -/
def placeWord (m : Mode) (input : List Byte) (s : State) : State :=
  { s with
    valid := true
    running := true
    mode := m
    wrap := if m = .head then .auto else s.wrap
    last := if m = .typedo then false else s.last
    src := .ofBytes input }

end Sys2Proof.Machine
end

