-- ==== Sys2Proof/Machine/Step.lean ====
section
/-! DEFINITION. `step`: one command when no call is in progress, else one iteration of the mode loop. -/

namespace Sys2Proof.Machine

/-- One iteration of the mode loop (46_host.md R448): a mode that reads an element fetches it and runs its
instruction, on the state whose bit stream fetch left; the other modes move by themselves. -/
def stepCall (s : State) : Host.Outcome State Fault Refusal :=
  match action s with
  | .move r => r
  | .read ctx =>
    match decode ctx s.src with
    | .element i q => exec i { s with src := q }
    | .starved p q => .next (starve p q s)
    | .overflow => .fault .accumulatorOverflow

/-- The host's next command, or nothing to do until the host issues one (46_host.md R440, 70_reset_and_hazards.md
R542, R543). -/
def stepHost (s : State) : Host.Outcome State Fault Refusal :=
  match s.commands with
  | [] => .next s
  | c :: rest =>
    if (decodeCommand c).wellFormed then exec (decodeCommand c) { s with commands := rest }
    else .refused .illFormedCommand

/-- One step of the core. -/
def step (s : State) : Host.Outcome State Fault Refusal :=
  if s.running then stepCall s else stepHost s

/-- `s` with a table word where the next step fetches its element (log 15, 16); where the decoder refuses the word,
`s` itself. -/
def State.withFetchWord (s : State) (nbits w : Nat) : State :=
  match tableMode nbits w with
  | some m => placeWord m (tableBytes nbits w) s
  | none => s

end Sys2Proof.Machine
end

