-- ==== Sys2Proof/Machine/FastPath.lean ====
section
/-! DEFINITION. The fast path (44_symbols.md R357 to R361): a faster route through the elements of the slow path, with the same effects. `step` takes the slow path only (R350, R357; log 17). -/

namespace Sys2Proof.Machine

/-- The slack the fast path needs (R350, R361). -/
def fastSlack (s : State) : Bool :=
  decide (Config.fastMinIn ≤ s.src.input.length) && decide (Config.fastMinOut ≤ s.left)

/-- PULLBYTE where the slack guarantees a byte (R358). -/
def fastPull (q : BitStream) : BitStream :=
  match q.input with
  | [] => q
  | b :: rest => q.pullByte b rest

/-- The two-byte refill (R358 step 1). -/
def fastRefill (q : BitStream) : BitStream := if q.bits < Config.fastRefill then fastPull (fastPull q) else q

/-- Pull at most two bytes for an extra field of `e` bits (R358). -/
def fastExtra (e : Nat) (q : BitStream) : BitStream :=
  let q1 := if q.bits < e then fastPull q else q
  if q1.bits < e then fastPull q1 else q1

/-- Trim (R359): whole unused bytes go back to the input. -/
def trim (q : BitStream) : BitStream :=
  let n := q.bits / 8
  let keep := q.bits % 8
  { hold := BitVec.ofNat 32 (q.hold.toNat % 2 ^ keep)
    bits := keep
    input := (List.range n).map (fun i => (q.hold >>> (keep + 8 * i)).setWidth 8) ++ q.input
    taken := q.taken - n }

/-- The distance half of an iteration, with a match length `len` (R358): the state, and whether the loop goes on. -/
def fastDistance (len : Nat) (s : State) : Bool × State :=
  let s1 := s.mapSrc fastRefill
  match s1.dcode.held s1.src with
  | none => (false, s1)
  | some (cw, .invalid) => (false, (s1.dropBits cw.len).raise .e15)
  | some (cw, .dist k) =>
    let s2 := (s1.dropBits cw.len).mapSrc (fastExtra (distanceExtra k))
    let d := distanceBase k + s2.src.peekBits (distanceExtra k)
    let s3 := s2.dropBits (distanceExtra k)
    if Config.dMax < d ∨ reach s3 < d then (false, s3.raise .e16) else (true, copyBack d len s3)

/-- One iteration of the fast-path loop (R358): the state, and whether the loop goes on. -/
def fastIteration (s : State) : Bool × State :=
  let s1 := s.mapSrc fastRefill
  match s1.lcode.held s1.src with
  | none => (false, s1)
  | some (cw, .lit v) => (true, memWrite v (s1.dropBits cw.len))
  | some (cw, .eob) => (false, (s1.dropBits cw.len).goto .type)
  | some (cw, .invalid) => (false, (s1.dropBits cw.len).raise .e14)
  | some (cw, .len k) =>
    let s2 := (s1.dropBits cw.len).mapSrc (fastExtra (lengthExtra k))
    fastDistance (lengthBase k + s2.src.peekBits (lengthExtra k)) (s2.dropBits (lengthExtra k))

/-- The loop (R358), at most `n` iterations; each one that goes on writes at least one byte. -/
def fastLoop : Nat → State → State
  | 0, s => s
  | n + 1, s =>
    match fastIteration s with
    | (false, t) => t
    | (true, t) => if fastSlack t then fastLoop n t else t

/-- FastPath() (R358, R359), entered in mode LEN with the slack. -/
def fastPath (s : State) : State := (fastLoop s.left s).mapSrc trim

/-- The three copy cases of R360, as the bytes a copy of `len` bytes at distance `dist` writes. -/
def copyCases (dist len : Nat) (s : State) : List Byte :=
  let n := s.outBuf.length
  let window := fun k => Memory.read s.win.ram
    (((s.win.wnext : Int) - ((dist - n : Nat) : Int) + (k : Int)) % (s.win.wsize : Int)).toNat
  if dist ≤ n then (List.range len).map (fun k => s.outBuf.getD (n - dist + k % dist) 0)
  else if len ≤ dist - n then (List.range len).map window
  else (List.range len).map (fun k =>
    if k % dist < dist - n then window (k % dist) else s.outBuf.getD (k % dist - (dist - n)) 0)

end Sys2Proof.Machine
end

