-- ==== Sys2Proof/Machine/Table.lean ====
section
/-! DEFINITION. The table representation of a code (43_huffman.md R306 to R309, R312): packed entries, a root table with second-level sub-tables, and the decode that reads them. It is one conforming implementation; `step` decodes with the abstract code (R309; log 18). -/

namespace Sys2Proof

/-- A packed entry `{op: 8 bits, bits: 8 bits, val: 16 bits}` (R306). -/
structure TableEntry where
  op : BitVec 8
  bits : BitVec 8
  val : BitVec 16
deriving DecidableEq, Repr

/-- A table: the flat array, and the width of its root table (R306, R308). -/
structure Table where
  root : Nat
  entries : List TableEntry
deriving DecidableEq, Repr

/-- A slot no codeword fills (R308). -/
def TableEntry.unfilled : TableEntry := ⟨64, 1, 0⟩

/-- An entry is a link iff `op != 0` and `op & 0xF0 = 0` (R306). -/
def TableEntry.isLink (e : TableEntry) : Bool := e.op != 0 && e.op &&& 0xF0 == 0

/-- `op` and `val` of a code-length entry (R306). -/
def ClEntry.packed : ClEntry → BitVec 8 × BitVec 16
  | .sym v => (0, BitVec.ofNat 16 v.val)
  | .invalid => (64, 0)

/-- `op` and `val` of a literal/length entry (R306). -/
def LlEntry.packed : LlEntry → BitVec 8 × BitVec 16
  | .lit v => (0, v.setWidth 16)
  | .eob => (96, 0)
  | .len k => (BitVec.ofNat 8 (16 + lengthExtra k), BitVec.ofNat 16 (lengthBase k))
  | .invalid => (64, 0)

/-- `op` and `val` of a distance entry (R306). -/
def DistEntry.packed : DistEntry → BitVec 8 × BitVec 16
  | .dist k => (BitVec.ofNat 8 (16 + distanceExtra k), BitVec.ofNat 16 (distanceBase k))
  | .invalid => (64, 0)

/-- The root width (R307): the requested width, never above the longest codeword nor below the shortest. -/
def rootWidth (requested : Nat) (lens : List Nat) : Nat :=
  let longest := max 1 (maxLength lens)
  let shortest := (lens.filter (fun l => l != 0)).foldl min longest
  max (min requested longest) shortest

/-- The root-table index of a codeword longer than the root (R308). -/
def linkIndex (root : Nat) (cw : Codeword) : Nat := revBits root (cw.code / 2 ^ (cw.len - root))

/-- The codewords longer than the root, by the value of their first `root` bits: the prefixes in increasing order. -/
def linkPrefixes {ε : Type} (root : Nat) (c : Code ε) : List Nat :=
  (List.range (2 ^ root)).filter
    (fun p => c.any (fun x => decide (root < x.1.len) && x.1.code / 2 ^ (x.1.len - root) == p))

/-- The width of the sub-table of a prefix (R308). -/
def subWidth {ε : Type} (root : Nat) (c : Code ε) (pre : Nat) : Nat :=
  c.foldl (fun t x =>
    if root < x.1.len ∧ x.1.code / 2 ^ (x.1.len - root) = pre then max t (x.1.len - root) else t) 0

/-- The slot of a (sub-)table of codewords `(L, c)` at index `i`, none if no codeword fills it (R308). -/
def slotOf {ε : Type} (pack : ε → BitVec 8 × BitVec 16) (c : Code ε) (i : Nat) : Option TableEntry :=
  (c.find? (fun x => decide (i % 2 ^ x.1.len = revBits x.1.len x.1.code))).map
    (fun x => ⟨(pack x.2).1, BitVec.ofNat 8 x.1.len, (pack x.2).2⟩)

/-- The codewords of a prefix without it. -/
def subCode {ε : Type} (root : Nat) (c : Code ε) (pre : Nat) : Code ε :=
  (c.filter (fun x => decide (root < x.1.len) && x.1.code / 2 ^ (x.1.len - root) == pre)).map
    (fun x => (⟨x.1.len - root, x.1.code % 2 ^ (x.1.len - root)⟩, x.2))

/-- The sub-table of a prefix (R308). -/
def subTable {ε : Type} (pack : ε → BitVec 8 × BitVec 16) (root : Nat) (c : Code ε) (pre : Nat) : List TableEntry :=
  (List.range (2 ^ subWidth root c pre)).map
    (fun j => (slotOf pack (subCode root c pre) j).getD .unfilled)

/-- The offsets of the sub-tables, one behind the other after the root table. -/
def subOffsets {ε : Type} (root : Nat) (c : Code ε) : Nat → List Nat → List (Nat × Nat)
  | _, [] => []
  | at_, p :: ps => (p, at_) :: subOffsets root c (at_ + 2 ^ subWidth root c p) ps

/-- The root entry at index `i` (R308). An offset fits its 16 bits (log 18). -/
def rootEntry {ε : Type} (pack : ε → BitVec 8 × BitVec 16) (root : Nat) (c : Code ε) (offsets : List (Nat × Nat)) (i : Nat) :
    TableEntry :=
  match slotOf pack (c.filter (fun x => decide (x.1.len ≤ root))) i with
  | some e => e
  | none =>
    match offsets.find? (fun p => revBits root p.1 == i) with
    | some (pre, offset) =>
      ⟨BitVec.ofNat 8 (subWidth root c pre), BitVec.ofNat 8 root, BitVec.ofNat 16 offset⟩
    | none => .unfilled

/-- The table of a code for a root width (R308). -/
def makeTable {ε : Type} (pack : ε → BitVec 8 × BitVec 16) (root : Nat) (c : Code ε) : Table :=
  let offsets := subOffsets root c (2 ^ root) (linkPrefixes root c)
  { root := root
    entries := (List.range (2 ^ root)).map (rootEntry pack root c offsets)
      ++ (linkPrefixes root c).flatMap (subTable pack root c) }

/-- The entry at an index of the array. -/
def Table.entry (t : Table) (i : Nat) : TableEntry := t.entries.getD i .unfilled

/-- What the bits held select (R312): the entry and the whole width, none if more bits are needed. -/
def Table.held (t : Table) (q : BitStream) : Option (TableEntry × Nat) :=
  let here := t.entry (q.peekBits t.root)
  let w := here.bits.toNat
  if q.bits < w then none
  else if here.isLink then
    let sub := t.entry (here.val.toNat + q.peekBits (w + here.op.toNat) / 2 ^ w)
    if q.bits < w + sub.bits.toNat then none else some (sub, w + sub.bits.toNat)
  else some (here, w)

/-- What the table decode answers: `op`, `val` and the width, as DecodePeek does. -/
inductive TablePeek where
  | found (op : BitVec 8) (val : BitVec 16) (width : Nat) (q : BitStream)
  | starved (q : BitStream)
  | overflow
deriving DecidableEq, Repr

/-- The loops of R312 over the input still presented. -/
def Table.peekFrom (t : Table) : List Byte → BitStream → TablePeek
  | [], q =>
    match t.held q with
    | some (e, w) => .found e.op e.val w q
    | none => .starved q
  | b :: rest, q =>
    match t.held q with
    | some (e, w) => .found e.op e.val w q
    | none => if 24 < q.bits then .overflow else t.peekFrom rest (q.pullByte b rest)

/-- The table decode (R312). -/
def Table.peek (t : Table) (q : BitStream) : TablePeek := t.peekFrom q.input q

/-- DecodePeek's answer as a table decode gives it. -/
def Peek.packed {ε : Type} (pack : ε → BitVec 8 × BitVec 16) : Peek ε → TablePeek
  | .found cw e q => .found (pack e).1 (pack e).2 cw.len q
  | .starved q => .starved q
  | .overflow => .overflow

/-- The table of the fixed literal/length code, root width 9 (R311). -/
def fixedLlTable : Table := makeTable LlEntry.packed (rootWidth Config.lenBitsFix fixedLlLengths) fixedLl

/-- The table of the fixed distance code, root width 5 (R311). -/
def fixedDistTable : Table := makeTable DistEntry.packed (rootWidth Config.distBitsFix fixedDistLengths) fixedDist

end Sys2Proof
end

