-- ==== Sys2Proof/Safety.lean ====
section
/-! DEFINITION. What counts as a safe state (10_state.md R51 and the bounds of R42, R43, R168 to R172, 43_huffman.md R315, 45_window.md R401 to R405), several steps in a row, and the terms in which claims about the encoding are written. -/

namespace Sys2Proof

/-! ### Streams -/

/-- The bits a stream still holds, the next one first (10_state.md R35, 20_memory.md R85). -/
def BitStream.stream (q : BitStream) : List Bool := bitsLsb q.bits q.hold.toNat ++ byteStream q.input

/-- `bits <= 32` and `hold < 2^bits` (40_bitstream.md R160, R169). -/
def BitStream.wf (q : BitStream) : Prop := q.bits ≤ 32 ∧ q.hold.toNat < 2 ^ q.bits

/-- A code in which `cw` reads as `e` and no codeword is a prefix of another (43_huffman.md R304). -/
def Code.reads {ε : Type} (c : Code ε) (cw : Codeword) (e : ε) : Prop := (cw, e) ∈ c ∧ c.prefixFree

/-- The Kraft sum of a list of code lengths, in units of `2^-15` (43_huffman.md R301: the bit budget used up). -/
def kraftSum (lens : List Nat) : Nat := (lens.map (fun l => if l = 0 then 0 else 2 ^ (Config.maxBits - l))).sum

/-- The length symbol of an instruction, less 257, with its codeword (30_encoding.md R121). -/
def Instr.lengthSymbol : Instr → Option (Codeword × Fin 29)
  | .length257 cw => some (cw, 0)
  | .length258 cw => some (cw, 1)
  | .length259 cw => some (cw, 2)
  | .length260 cw => some (cw, 3)
  | .length261 cw => some (cw, 4)
  | .length262 cw => some (cw, 5)
  | .length263 cw => some (cw, 6)
  | .length264 cw => some (cw, 7)
  | .length265 cw _ => some (cw, 8)
  | .length266 cw _ => some (cw, 9)
  | .length267 cw _ => some (cw, 10)
  | .length268 cw _ => some (cw, 11)
  | .length269 cw _ => some (cw, 12)
  | .length270 cw _ => some (cw, 13)
  | .length271 cw _ => some (cw, 14)
  | .length272 cw _ => some (cw, 15)
  | .length273 cw _ => some (cw, 16)
  | .length274 cw _ => some (cw, 17)
  | .length275 cw _ => some (cw, 18)
  | .length276 cw _ => some (cw, 19)
  | .length277 cw _ => some (cw, 20)
  | .length278 cw _ => some (cw, 21)
  | .length279 cw _ => some (cw, 22)
  | .length280 cw _ => some (cw, 23)
  | .length281 cw _ => some (cw, 24)
  | .length282 cw _ => some (cw, 25)
  | .length283 cw _ => some (cw, 26)
  | .length284 cw _ => some (cw, 27)
  | .length285 cw => some (cw, 28)
  | _ => none

/-- The distance symbol of an instruction, with its codeword (30_encoding.md R123). -/
def Instr.distanceSymbol : Instr → Option (Codeword × Fin 30)
  | .distance0 cw => some (cw, 0)
  | .distance1 cw => some (cw, 1)
  | .distance2 cw => some (cw, 2)
  | .distance3 cw => some (cw, 3)
  | .distance4 cw _ => some (cw, 4)
  | .distance5 cw _ => some (cw, 5)
  | .distance6 cw _ => some (cw, 6)
  | .distance7 cw _ => some (cw, 7)
  | .distance8 cw _ => some (cw, 8)
  | .distance9 cw _ => some (cw, 9)
  | .distance10 cw _ => some (cw, 10)
  | .distance11 cw _ => some (cw, 11)
  | .distance12 cw _ => some (cw, 12)
  | .distance13 cw _ => some (cw, 13)
  | .distance14 cw _ => some (cw, 14)
  | .distance15 cw _ => some (cw, 15)
  | .distance16 cw _ => some (cw, 16)
  | .distance17 cw _ => some (cw, 17)
  | .distance18 cw _ => some (cw, 18)
  | .distance19 cw _ => some (cw, 19)
  | .distance20 cw _ => some (cw, 20)
  | .distance21 cw _ => some (cw, 21)
  | .distance22 cw _ => some (cw, 22)
  | .distance23 cw _ => some (cw, 23)
  | .distance24 cw _ => some (cw, 24)
  | .distance25 cw _ => some (cw, 25)
  | .distance26 cw _ => some (cw, 26)
  | .distance27 cw _ => some (cw, 27)
  | .distance28 cw _ => some (cw, 28)
  | .distance29 cw _ => some (cw, 29)
  | _ => none

/-- A run of at most `n` bytes is whole: it has them all, or the input ends with it. -/
def wholeRun (n : Nat) (data : List Byte) (rest : List Bool) : Prop :=
  data.length = n ∨ data.length < n ∧ rest = []

/-- Where instruction `i`, with `rest` behind it in the stream, is what context `ctx` reads. -/
def Context.admits (ctx : Context) (i : Instr) (rest : List Bool) : Prop :=
  match ctx with
  | .head wrap =>
    (i = .gzipMagic ∧ (wrap = .gzip ∨ wrap = .auto)) ∨
    ∃ cmf flg, i = .zlibHeader cmf flg ∧ ¬((wrap = .gzip ∨ wrap = .auto) ∧ cmf = 0x1F ∧ flg = 0x8B)
  | .flags => ∃ cm flg, i = .gzipCmFlg cm flg
  | .time => ∃ t, i = .gzipMtime t
  | .os => ∃ xfl os, i = .gzipXflOs xfl os
  | .xlen => ∃ n, i = .gzipXlen n
  | .extra n => ∃ data, i = .gzipExtra data ∧ wholeRun n data rest
  | .name => ∃ data, i = .gzipName data ∧ (0 ∈ data ∨ rest = [])
  | .comment => ∃ data, i = .gzipComment data ∧ (0 ∈ data ∨ rest = [])
  | .hcrc => ∃ crc, i = .gzipHcrc crc
  | .dictid => ∃ id, i = .zlibDictid id
  | .adler32 => ∃ v, i = .zlibAdler32 v
  | .crc32 => ∃ v, i = .gzipCrc32 v
  | .isize => ∃ n, i = .gzipIsize n
  | .blockHeader =>
    ∃ final, i = .blockStored final ∨ i = .blockFixed final ∨ i = .blockDynamic final ∨ i = .blockReserved final
  | .storedLen => ∃ len nlen, i = .storedLenNlen len nlen
  | .storedData n => ∃ data, i = .storedData data ∧ wholeRun n data rest
  | .dynCounts => ∃ hlit hdist hclen, i = .dynCounts hlit hdist hclen
  | .clLen => ∃ len, i = .dynCllen len
  | .codeLengths c =>
    (∃ cw len e, i = .clLength cw len ∧ c.reads cw e ∧ e.value = len.toNat) ∨
    (∃ cw r, i = .clRepeatPrev cw r ∧ c.reads cw (.sym 16)) ∨
    (∃ cw r, i = .clZeroShort cw r ∧ c.reads cw (.sym 17)) ∨
    ∃ cw r, i = .clZeroLong cw r ∧ c.reads cw (.sym 18)
  | .litLen c =>
    (∃ cw v, i = .literal cw v ∧ c.reads cw (.lit v)) ∨
    (∃ cw, i = .endOfBlock cw ∧ c.reads cw .eob) ∨
    (∃ cw, i = .llInvalid cw ∧ c.reads cw .invalid) ∨
    ∃ cw k, i.lengthSymbol = some (cw, k) ∧ c.reads cw (.len k)
  | .distance c =>
    (∃ cw, i = .distInvalid cw ∧ c.reads cw .invalid) ∨
    ∃ cw k, i.distanceSymbol = some (cw, k) ∧ c.reads cw (.dist k)

/-- The contexts whose elements start at a byte boundary with nothing held (30_encoding.md R111: BYTES, RAW, STRZ;
40_bitstream.md R170). -/
def Context.aligned : Context → Bool
  | .head _ | .flags | .time | .os | .xlen | .extra _ | .name | .comment | .hcrc | .dictid | .adler32 | .crc32
  | .isize | .storedLen | .storedData _ => true
  | .blockHeader | .dynCounts | .clLen | .codeLengths _ | .litLen _ | .distance _ => false

/-- How many bits of instruction `i` fetch itself consumes: the bytes of a run, the codeword of a literal/length or
distance symbol; the meaning consumes the rest. -/
def Instr.fetchConsumes (i : Instr) : Nat :=
  match i with
  | .gzipExtra data | .gzipName data | .gzipComment data | .storedData data => 8 * data.length
  | .literal cw _ | .endOfBlock cw | .llInvalid cw | .distInvalid cw => cw.len
  | i =>
    match i.lengthSymbol with
    | some (cw, _) => cw.len
    | none =>
      match i.distanceSymbol with
      | some (cw, _) => cw.len
      | none => 0

/-- The stream elements that can write output or end the call: a literal, a distance (with its match), stored data,
and the two headers after which a TREES call stops. -/
def Instr.mayOutput (i : Instr) : Bool :=
  match i with
  | .literal _ _ | .storedData _ | .blockFixed _ | .storedLenNlen _ _ => true
  | i => i.distanceSymbol.isSome

/-- A host command, not an element of the stream. -/
def Instr.isCommand : Instr → Bool
  | .init _ | .reset _ | .inflate _ _ _ | .setDictionary _ | .getHeader _ | .teardown => true
  | _ => false

namespace Machine

/-! ### One step and several steps -/

/-- A step of `s` runs the element its mode reads in context `ctx`, on the state whose stream fetch left. -/
def StepRuns (ctx : Context) (s : State) : Prop :=
  ∀ i q, decode ctx s.src = .element i q → step s = exec i { s with src := q }

/-- `n` steps in a row, none if one of them stops. -/
def runSteps : Nat → State → Option State
  | 0, s => some s
  | n + 1, s =>
    match step s with
    | .next t => runSteps n t
    | .fault _ => none
    | .refused _ => none

/-- Two states that differ at most in the scratch fields `length`, `offset` and `extra` (44_symbols.md R357). -/
def sameButScratch (a b : State) : Prop :=
  { a with length := 0, offset := 0, extra := 0 } = { b with length := 0, offset := 0, extra := 0 }

/-- The window addresses an update with `data` stores to (45_window.md R403). -/
def Window.writes (w : Window) (data : List Byte) (a : Nat) : Prop :=
  if w.wsize ≤ data.length then a < w.wsize else ∃ k, k < data.length ∧ a = (w.wnext + k) % w.wsize

/-! ### Safe states -/

/-- Between calls nothing of a call is left, and only a valid instance has a call in progress (10_state.md R49,
46_host.md R445). -/
structure CallOk (s : State) : Prop where
  idle : s.running = false → s.src.input = [] ∧ s.src.taken = 0 ∧ s.outBuf = [] ∧ s.left = 0
  valid : s.running = true → s.valid = true

/-- The accumulator (10_state.md R51, 40_bitstream.md R160, R169). -/
def AccumulatorOk (s : State) : Prop := s.src.wf

/-- BAD and `msg` (10_state.md R51), with what MEM may override (60_exceptions.md R484, R488; log 20). -/
structure ErrorOk (s : State) : Prop where
  bad : s.mode = .bad → s.msg ≠ .e0
  msg : s.msg ≠ .e0 → s.mode = .bad ∨ s.mode = .mem
  mem : s.mode = .mem → s.allocMayFail = true

/-- The window (10_state.md R51, R32; 45_window.md R401 to R405). -/
structure WindowOk (s : State) : Prop where
  whave : s.win.whave ≤ s.win.wsize
  wnext : s.win.wnext < s.win.wsize ∨ s.win.wsize = 0 ∧ s.win.wnext = 0
  filling : s.win.whave < s.win.wsize → s.win.wnext = s.win.whave
  size : s.win.wsize = 0 ∨ s.win.wsize = 2 ^ s.wbits ∧ s.wbits ≠ 0
  wbits : s.wbits = 0 ∨ 8 ≤ s.wbits ∧ s.wbits ≤ 15
  raw : s.wrap = .none → s.wbits ≠ 0
  known : s.wbits = 0 → s.mode = .head ∨ s.mode = .bad ∨ s.mode = .mem
  output : s.outBuf ≠ [] → s.wbits ≠ 0
  ram : Memory.wf s.win.ram
  space : ∀ c ∈ s.win.ram, c.1 < Config.dMax

/-- A code-length element waits for input: no codeword is held, or a repeat whose extra bits are not all held
(42_blocks.md R257). -/
def clWaits (c : Code ClEntry) (q : BitStream) : Prop :=
  match c.held q with
  | none => True
  | some (cw, e) =>
    (e.value = 16 ∧ q.bits < cw.len + 2) ∨ (e.value = 17 ∧ q.bits < cw.len + 3) ∨ (e.value = 18 ∧ q.bits < cw.len + 7)

/-- How many bits are held in each mode: at most 7 at an element boundary (40_bitstream.md R168), none in the
byte-copy modes (R170), and inside an element fewer than the element needs (R172). -/
def bitsBound (s : State) : Prop :=
  match s.mode with
  | .head => s.src.bits = 0 ∨ s.src.bits = 8 ∧ s.wrap ≠ .none
  | .flags | .os => s.src.bits = 0 ∨ s.src.bits = 8
  | .time | .dictid => s.src.bits % 8 = 0 ∧ s.src.bits ≤ 24
  | .exlen => s.src.bits = 0 ∨ s.src.bits = 8 ∧ fextra s.gflg = true
  | .hcrc => s.src.bits = 0 ∨ s.src.bits = 8 ∧ fhcrc s.gflg = true
  | .extra | .name | .comment | .dict | .copy_ | .copy | .done => s.src.bits = 0
  | .type | .typedo | .lenlens | .len_ | .lenext | .matched | .lit => s.src.bits ≤ 7
  | .stored => s.src.bits ≤ 7 ∨ s.src.bits % 8 = 0 ∧ s.src.bits ≤ 24
  | .table => s.src.bits ≤ 13
  | .codelens => s.src.bits ≤ 7 ∨ s.ncnt < s.nlen + s.ndist ∧ clWaits s.clcode s.src
  | .len => s.src.bits ≤ 7 ∨ s.lcode.held s.src = none
  | .dist => s.src.bits ≤ 7 ∨ s.dcode.held s.src = none
  | .distext => s.src.bits ≤ 7 ∨ s.src.bits < s.extra
  | .check => s.src.bits = 0 ∨ s.src.bits % 8 = 0 ∧ s.src.bits ≤ 24 ∧ s.wrap ≠ .none
  | .length => s.src.bits = 0 ∨ s.src.bits % 8 = 0 ∧ s.src.bits ≤ 24 ∧ s.wrap ≠ .none ∧ s.fmt = .gzip
  | .bad | .mem => True

/-- The codes a mode decodes with cover every pattern of 15 bits (43_huffman.md R315, 10_state.md R44). -/
def codesBound (s : State) : Prop :=
  match s.mode with
  | .codelens => s.clcode.covers
  | .len_ | .len | .lenext | .dist | .distext | .matched | .lit => s.lcode.covers ∧ s.dcode.covers
  | .head | .flags | .time | .os | .exlen | .extra | .name | .comment | .hcrc | .dictid | .dict | .type | .typedo
  | .stored | .copy_ | .copy | .table | .lenlens | .check | .length | .done | .bad | .mem => True

/-- The scratch fields (10_state.md R42, R43), in the modes that read them. -/
def scratchBound (s : State) : Prop :=
  match s.mode with
  | .extra => fextra s.gflg = true → s.length < 2 ^ 16
  | .copy_ | .copy => s.length < 2 ^ 16
  | .lenlens =>
    s.ncnt ≤ s.ncode ∧ 4 ≤ s.ncode ∧ s.ncode ≤ 19 ∧ 257 ≤ s.nlen ∧ s.nlen ≤ 286 ∧ 1 ≤ s.ndist ∧ s.ndist ≤ 30
  | .codelens => s.ncnt ≤ s.nlen + s.ndist ∧ 257 ≤ s.nlen ∧ s.nlen ≤ 286 ∧ 1 ≤ s.ndist ∧ s.ndist ≤ 30
  | .lit => s.length < 256
  | .lenext => s.extra ≤ 5 ∧ 3 ≤ s.length ∧ s.length + 2 ^ s.extra ≤ 259
  | .dist => 3 ≤ s.length ∧ s.length ≤ 258
  | .distext =>
    3 ≤ s.length ∧ s.length ≤ 258 ∧ s.extra ≤ 13 ∧ 1 ≤ s.offset ∧ s.offset + 2 ^ s.extra ≤ Config.dMax + 1
  | .matched => 1 ≤ s.length ∧ s.length ≤ 258 ∧ 1 ≤ s.offset ∧ s.offset ≤ Config.dMax
  | .head | .flags | .time | .os | .exlen | .name | .comment | .hcrc | .dictid | .dict | .type | .typedo | .stored
  | .table | .len_ | .len | .check | .length | .done | .bad | .mem => True

/-- What decoding relies on: the bit bounds, the codes and the scratch fields of the current mode. -/
structure DecodeOk (s : State) : Prop where
  bits : bitsBound s
  codes : codesBound s
  scratch : scratchBound s
  lens : s.lens.length = 320

/-- A safe state. -/
structure Safe (s : State) : Prop where
  call : CallOk s
  accumulator : AccumulatorOk s
  error : ErrorOk s
  window : WindowOk s
  decode : DecodeOk s

end Machine

end Sys2Proof
end

