-- ==== Sys2Proof/Certificates/Slice0/Obligations.lean ====
section
/-! DEFINITION. The statements for the provers. Where a docstring names a log entry, that clause is the model's choice, not the spec's. -/

open Sys2Proof Sys2Proof.Machine

/-- 40_bitstream.md R162 with R160, R161, R167: NEED pulls bytes in order until `n` bits are held, or keeps what it pulled. -/
def Obligations.NeedKeepsTheStream : Prop :=
  ∀ (n : Nat) (q : BitStream), q.wf → n ≤ 32 → (q.bits % 8 = 0 ∨ n ≤ 25) →
    (n ≤ q.bits + 8 * q.input.length →
      ∃ q', q.need n = .held q' ∧ q'.wf ∧ q'.stream = q.stream ∧ n ≤ q'.bits ∧ (q' = q ∨ q'.bits < n + 8) ∧
        q'.taken + q'.input.length = q.taken + q.input.length) ∧
    (q.bits + 8 * q.input.length < n →
      ∃ q', q.need n = .starved q' ∧ q'.wf ∧ q'.stream = q.stream ∧ q'.input = [] ∧
        q'.bits = q.bits + 8 * q.input.length ∧ q'.taken = q.taken + q.input.length)

/-- 40_bitstream.md R163, R164, R165, 20_memory.md R85. -/
def Obligations.BitsAndDropTakeTheOldestBits : Prop :=
  ∀ (n : Nat) (q : BitStream), q.wf → n ≤ q.bits →
    bitsLsb n (q.peekBits n) = q.stream.take n ∧
    (q.drop n).stream = q.stream.drop n ∧ (q.drop n).bits = q.bits - n ∧ (q.drop n).wf ∧
    (∃ k, k < 8 ∧ q.byteBits.stream = q.stream.drop k ∧ q.byteBits.bits + k = q.bits) ∧
    q.byteBits.bits % 8 = 0

/-- 40_bitstream.md R167: the next call re-reads the held bits and resumes exactly; for every context of the decoder. -/
def Obligations.DecodingResumesExactly : Prop :=
  ∀ (ctx : Context) (q q' : BitStream) (first second : List Byte),
    decode ctx { q with input := first } = .starved none q' → q'.input = [] →
    decode ctx { q' with input := second } = decode ctx { q with input := first ++ second }

/-- 40_bitstream.md R167, 44_symbols.md R351 to R354, 60_exceptions.md R491; STORED discards to the byte boundary first (42_blocks.md R252; log 26). -/
def Obligations.SuspensionKeepsEveryBit : Prop :=
  ∀ (s t : State) (ctx : Context) (p : Option Pending) (q : BitStream),
    s.src.wf → s.running = true → action s = .read ctx → decode ctx s.src = .starved p q → step s = .next t →
    t.running = false ∧ t.src = ⟨q.hold, q.bits, [], 0⟩ ∧
    (p = none → ctx ≠ .storedLen → q.stream = s.src.stream) ∧
    (p = none → ctx = .storedLen → q.stream = s.src.byteBits.stream) ∧
    (p = none → (t.mode = s.mode ∨ t.mode = .mem ∧ s.allocMayFail = true) ∧ t.length = s.length ∧
      t.offset = s.offset ∧ t.extra = s.extra ∧ t.ncnt = s.ncnt ∧ t.lens = s.lens) ∧
    (∀ k, p = some (.length k) → (t.mode = .lenext ∨ t.mode = .mem ∧ s.allocMayFail = true) ∧
      t.length = lengthBase k ∧ t.extra = lengthExtra k) ∧
    (∀ k, p = some (.distance k) → (t.mode = .distext ∨ t.mode = .mem ∧ s.allocMayFail = true) ∧
      t.offset = distanceBase k ∧ t.extra = distanceExtra k ∧ t.length = s.length)

/-- 30_encoding.md R125, with 43_huffman.md R311. -/
def Obligations.FixedCodewords : Prop :=
  fixedLl.lookup ⟨7, 0b0000000⟩ = some .eob ∧
  (∀ k : Fin 23, fixedLl.lookup ⟨7, k.val + 1⟩ = some (.len ⟨k.val, by omega⟩)) ∧
  (∀ v : Fin 144, fixedLl.lookup ⟨8, 0b00110000 + v.val⟩ = some (.lit (BitVec.ofNat 8 v.val))) ∧
  (∀ k : Fin 6, fixedLl.lookup ⟨8, 0b11000000 + k.val⟩ = some (.len ⟨23 + k.val, by omega⟩)) ∧
  (∀ k : Fin 2, fixedLl.lookup ⟨8, 0b11000110 + k.val⟩ = some .invalid) ∧
  (∀ v : Fin 112, fixedLl.lookup ⟨9, 0b110010000 + v.val⟩ = some (.lit (BitVec.ofNat 8 (144 + v.val)))) ∧
  (∀ d : Fin 30, fixedDist.lookup ⟨5, d.val⟩ = some (.dist d)) ∧
  fixedDist.lookup ⟨5, 30⟩ = some .invalid ∧ fixedDist.lookup ⟨5, 31⟩ = some .invalid

/-- 43_huffman.md R301, R302. -/
def Obligations.BuildCodeAcceptsExactlyTheseLengths : Prop :=
  ∀ (ε : Type) (kind : CodeKind) (entry : Nat → ε) (invalid : ε) (lens : List Nat), (∀ l ∈ lens, l ≤ 15) →
    ((∀ l ∈ lens, l = 0) → buildCode kind entry invalid lens = some [(⟨1, 0⟩, invalid), (⟨1, 1⟩, invalid)]) ∧
    (2 ^ 15 < kraftSum lens → buildCode kind entry invalid lens = none) ∧
    (0 < kraftSum lens → kraftSum lens < 2 ^ 15 → (kind = .codes ∨ ∃ l ∈ lens, 1 < l) →
      buildCode kind entry invalid lens = none) ∧
    (0 < kraftSum lens → kraftSum lens < 2 ^ 15 → kind ≠ .codes → (∀ l ∈ lens, l ≤ 1) →
      ∃ sym, lens[sym]? = some 1 ∧ (∀ j, lens[j]? = some 1 → j = sym) ∧
        buildCode kind entry invalid lens = some [(⟨1, 0⟩, entry sym), (⟨1, 1⟩, invalid)]) ∧
    (kraftSum lens = 2 ^ 15 → buildCode kind entry invalid lens = some (canonicalCode entry lens))

/-- 43_huffman.md R303, its recurrence solved. -/
def Obligations.CanonicalCodewordsInSymbolOrder : Prop :=
  ∀ (ε : Type) (entry : Nat → ε) (lens : List Nat), (∀ l ∈ lens, l ≤ 15) →
    (canonicalCode entry lens).length = (lens.filter (fun l => l != 0)).length ∧
    ∀ sym l, lens[sym]? = some l → l ≠ 0 →
      (⟨l, ((List.range l).map (fun j => lengthCount lens j * 2 ^ (l - j))).sum + (lens.take sym).count l⟩,
        entry sym) ∈ canonicalCode entry lens

/-- 43_huffman.md R304. -/
def Obligations.BuiltCodesArePrefixFree : Prop :=
  ∀ (ε : Type) (kind : CodeKind) (entry : Nat → ε) (invalid : ε) (lens : List Nat) (c : Code ε),
    (∀ l ∈ lens, l ≤ 15) → buildCode kind entry invalid lens = some c →
    c.prefixFree ∧ ∀ p ∈ c, p.1.wellFormed = true

/-- 43_huffman.md R315: every code built by R302 covers every 15-bit pattern. -/
def Obligations.BuiltCodesCoverEveryPattern : Prop :=
  ∀ (ε : Type) (kind : CodeKind) (entry : Nat → ε) (invalid : ε) (lens : List Nat) (c : Code ε),
    (∀ l ∈ lens, l ≤ 15) → buildCode kind entry invalid lens = some c → c.covers

/-- 43_huffman.md R305, R315, 30_encoding.md R112. -/
def Obligations.DecodePeekReadsTheCodewordAhead : Prop :=
  ∀ (ε : Type) (c : Code ε) (cw : Codeword) (e : ε) (q : BitStream) (rest : List Bool),
    c.reads cw e → cw.wellFormed = true → q.wf → q.stream = cw.bits ++ rest →
    ∃ q', decodePeek c q = .found cw e q' ∧ q'.wf ∧ q'.stream = q.stream ∧ cw.len ≤ q'.bits ∧
      (q' = q ∨ q'.bits < cw.len + 8)

/-- 43_huffman.md R309 for the representation of R306, R308, R312, at every root width 1 to 15 (R300 asks for 9, 6 and 7). -/
def Obligations.TableDecodeConforms : Prop :=
  (∀ (kind : CodeKind) (lens : List Nat) (c : Code LlEntry) (root : Nat) (q : BitStream),
    (∀ l ∈ lens, l ≤ 15) → buildCode kind llEntry .invalid lens = some c → 1 ≤ root → root ≤ 15 → q.wf →
    (makeTable LlEntry.packed root c).peek q = (decodePeek c q).packed LlEntry.packed) ∧
  (∀ (kind : CodeKind) (lens : List Nat) (c : Code DistEntry) (root : Nat) (q : BitStream),
    (∀ l ∈ lens, l ≤ 15) → buildCode kind distEntry .invalid lens = some c → 1 ≤ root → root ≤ 15 → q.wf →
    (makeTable DistEntry.packed root c).peek q = (decodePeek c q).packed DistEntry.packed) ∧
  (∀ (kind : CodeKind) (lens : List Nat) (c : Code ClEntry) (root : Nat) (q : BitStream),
    (∀ l ∈ lens, l ≤ 15) → buildCode kind clEntry .invalid lens = some c → 1 ≤ root → root ≤ 15 → q.wf →
    (makeTable ClEntry.packed root c).peek q = (decodePeek c q).packed ClEntry.packed)

/-- 30_encoding.md R111 to R135 with 20_memory.md R85 to R88: no bit of an encoding is dropped. STORED's BYTEBITS (42_blocks.md R252) discards what is held before the byte boundary. -/
def Obligations.DecodeEncodeRoundTrip : Prop :=
  (∀ i : Instr, i.wellFormed = true →
    match encode i with
    | .command c => decodeCommand c = i
    | .stream bits => ∀ (ctx : Context) (q : BitStream) (rest : List Bool),
        ctx.admits i rest → q.wf → q.bits ≤ 7 → (ctx.aligned = true → q.bits = 0) → q.stream = bits ++ rest →
        ∃ q', decode ctx q = .element i q' ∧ q'.wf ∧ q'.stream = q.stream.drop i.fetchConsumes) ∧
  (∀ (len nlen : U16) (bits rest : List Bool) (q : BitStream),
    encode (.storedLenNlen len nlen) = .stream bits → q.wf → q.stream.drop (q.bits % 8) = bits ++ rest →
    ∃ q', decode .storedLen q = .element (.storedLenNlen len nlen) q' ∧ q'.wf ∧
      q'.stream = q.stream.drop (q.bits % 8))

/-- 30_encoding.md R114, R116, R117, R121, R123, R125, R126, R127, R128, R130. -/
def Obligations.KnownWordsDecode : Prop :=
  (∃ q, decode (.head .zlib) (.ofBytes [0x78, 0x9C]) = .element (.zlibHeader 0x78 0x9C) q) ∧
  (∃ q, decode (.head .gzip) (.ofBytes [0x1F, 0x8B]) = .element .gzipMagic q) ∧
  (∃ q, decode .blockHeader (.ofBytes [0x4B]) = .element (.blockFixed true) q) ∧
  (∃ q, decode .storedLen (.ofBytes [0x05, 0x00, 0xFA, 0xFF]) = .element (.storedLenNlen 5 0xFFFA) q) ∧
  (∃ q, decode .adler32 (.ofBytes [0x00, 0x62, 0x00, 0x62]) = .element (.zlibAdler32 0x00620062) q) ∧
  (∃ q, decode .crc32 (.ofBytes [0x43, 0xBE, 0xB7, 0xE8]) = .element (.gzipCrc32 0xE8B7BE43) q) ∧
  (∃ q, decode .dynCounts (.ofBytes [0xBD, 0x3F]) = .element (.dynCounts 29 29 15) q) ∧
  (∃ q, decode (.litLen fixedLl) (.ofBytes [0x89]) = .element (.literal ⟨8, 0b10010001⟩ 97) q) ∧
  (∃ q, decode (.litLen fixedLl) (.ofBytes [0x00]) = .element (.endOfBlock ⟨7, 0⟩) q) ∧
  (∃ q, decode (.litLen fixedLl) (.ofBytes [0b11001000]) = .element (.length265 ⟨7, 0b0001001⟩ 1) q) ∧
  (∃ q, decode (.distance fixedDist) (.ofBytes [0b11000]) = .element (.distance3 ⟨5, 0b00011⟩) q)

/-- 30_encoding.md R121, R123, R134; so the DISTEXT test of 44_symbols.md R354 never fires. -/
def Obligations.EveryLengthAndDistanceHasOneSymbol : Prop :=
  (∀ l, 3 ≤ l → l ≤ 258 → ∃! p : Fin 29 × Nat,
    p.2 < 2 ^ lengthExtra p.1 ∧ lengthBase p.1 + p.2 = l ∧ ¬(p.1 = 27 ∧ p.2 = 31)) ∧
  (∀ d, 1 ≤ d → d ≤ 32768 → ∃! p : Fin 30 × Nat, p.2 < 2 ^ distanceExtra p.1 ∧ distanceBase p.1 + p.2 = d) ∧
  (∀ (k : Fin 29) (x : Nat), x < 2 ^ lengthExtra k → 3 ≤ lengthBase k + x ∧ lengthBase k + x ≤ 258) ∧
  (∀ (k : Fin 30) (x : Nat), x < 2 ^ distanceExtra k →
    1 ≤ distanceBase k + x ∧ distanceBase k + x ≤ Config.dMax)

/-- 41_wrapper.md R193. The element's 16 bits are held; the equations are also its frame. -/
def Obligations.ZlibHeaderResult : Prop :=
  ∀ (cmf flg : Byte) (s : State),
    let w := cmf.toNat / 16 + 8
    let wb := if s.wbits = 0 then w else s.wbits
    let head := s.head.map (fun r => { r with done := -1 })
    ((s.wrap = .gzip ∨ (cmf.toNat * 256 + flg.toNat) % 31 ≠ 0) →
      exec (.zlibHeader cmf flg) s = .next { s with head := head, msg := .e1, mode := .bad }) ∧
    (s.wrap ≠ .gzip → (cmf.toNat * 256 + flg.toNat) % 31 = 0 →
      (cmf.toNat % 16 ≠ 8 →
        exec (.zlibHeader cmf flg) s = .next { s with head := head, msg := .e2, mode := .bad }) ∧
      (cmf.toNat % 16 = 8 → 15 < w →
        exec (.zlibHeader cmf flg) s = .next { s with head := head, msg := .e3, mode := .bad }) ∧
      (cmf.toNat % 16 = 8 → w ≤ 15 → wb < w →
        exec (.zlibHeader cmf flg) s = .next { s with head := head, wbits := wb, msg := .e3, mode := .bad }) ∧
      (cmf.toNat % 16 = 8 → w ≤ 15 → w ≤ wb →
        exec (.zlibHeader cmf flg) s = .next { s with
          head := head, wbits := wb, fmt := .zlib, check := 1, src := s.src.initBits
          mode := if flg.getLsbD 5 then .dictid else .type }))

/-- 41_wrapper.md R192, R195, R196, R197 (FEXTRA set). -/
def Obligations.GzipFixedFieldResults : Prop :=
  ∀ (t : U32) (xfl os : Byte) (n : U16) (s : State),
    exec .gzipMagic s = .next { s with
      wbits := if s.wbits = 0 then 15 else s.wbits, fmt := .gzip, hcheck := crc32Update 0 [0x1F, 0x8B]
      src := s.src.initBits, mode := .flags } ∧
    exec (.gzipMtime t) s = .next { s with
      head := s.head.map (fun r => { r with time := t }), hcheck := crc32Update s.hcheck (le32 t)
      src := s.src.initBits, mode := .os } ∧
    exec (.gzipXflOs xfl os) s = .next { s with
      head := s.head.map (fun r => { r with xflags := xfl, os := os }), hcheck := crc32Update s.hcheck [xfl, os]
      src := s.src.initBits, mode := .exlen } ∧
    exec (.gzipXlen n) s = .next { s with
      length := n.toNat, head := s.head.map (fun r => { r with extraLen := n, extra := some [] })
      hcheck := crc32Update s.hcheck (le16 n), src := s.src.initBits, mode := .extra }

/-- 41_wrapper.md R194. -/
def Obligations.GzipFlagsResult : Prop :=
  ∀ (cm flg : Byte) (s : State),
    (cm ≠ 8 → exec (.gzipCmFlg cm flg) s = .next { s with msg := .e2, mode := .bad }) ∧
    (cm = 8 → flg.toNat / 32 ≠ 0 → exec (.gzipCmFlg cm flg) s = .next { s with msg := .e4, mode := .bad }) ∧
    (cm = 8 → flg.toNat / 32 = 0 → exec (.gzipCmFlg cm flg) s = .next { s with
      gflg := flg, head := s.head.map (fun r => { r with text := flg.getLsbD 0 })
      hcheck := crc32Update s.hcheck [cm, flg], src := s.src.initBits, mode := .time })

/-- 41_wrapper.md R198, R199, R200. That an absent name counts as empty is the model's choice (log 12), and so is the run as the unit of execution (log 22). -/
def Obligations.GzipRunResults : Prop :=
  ∀ (data : List Byte) (s : State),
    exec (.gzipExtra data) s = .next { s with
      length := s.length - data.length
      hcheck := crc32Update s.hcheck data
      head := s.head.map (fun r => { r with
        extra := some (r.extra.getD [] ++ data.take (r.extraMax - (r.extra.getD []).length)) })
      mode := if s.length ≤ data.length then .name else s.mode } ∧
    exec (.gzipName data) s = .next { s with
      hcheck := crc32Update s.hcheck data
      head := s.head.map (fun r => { r with
        name := some (r.name.getD [] ++
          (data.takeWhile (fun b => b != 0)).take (r.nameMax - (r.name.getD []).length)) })
      mode := if (0 : Byte) ∈ data then .comment else s.mode } ∧
    exec (.gzipComment data) s = .next { s with
      hcheck := crc32Update s.hcheck data
      head := s.head.map (fun r => { r with
        comment := some (r.comment.getD [] ++
          (data.takeWhile (fun b => b != 0)).take (r.commentMax - (r.comment.getD []).length)) })
      mode := if (0 : Byte) ∈ data then .hcrc else s.mode }

/-- 41_wrapper.md R198 to R200 and 42_blocks.md R254 give these byte by byte; a run of any length means the same (log 22). -/
def Obligations.ByteRunsMayBeSplit : Prop :=
  ∀ (first second : List Byte) (s t : State),
    (first.length < s.length → exec (.gzipExtra first) s = .next t →
      exec (.gzipExtra second) t = exec (.gzipExtra (first ++ second)) s) ∧
    ((0 : Byte) ∉ first → exec (.gzipName first) s = .next t →
      exec (.gzipName second) t = exec (.gzipName (first ++ second)) s) ∧
    ((0 : Byte) ∉ first → exec (.gzipComment first) s = .next t →
      exec (.gzipComment second) t = exec (.gzipComment (first ++ second)) s) ∧
    (exec (.storedData first) s = .next t →
      exec (.storedData second) t = exec (.storedData (first ++ second)) s)

/-- 41_wrapper.md R201, R202, R205, R206. -/
def Obligations.DictidHcrcAndTrailerResults : Prop :=
  ∀ (v : U32) (crc : U16) (s : State),
    exec (.zlibDictid v) s = .next { s with check := v, src := s.src.initBits, mode := .dict } ∧
    (crc ≠ s.hcheck.setWidth 16 → exec (.gzipHcrc crc) s = .next { s with msg := .e5, mode := .bad }) ∧
    (crc = s.hcheck.setWidth 16 → exec (.gzipHcrc crc) s = .next { s with
      head := s.head.map (fun r => { r with hcrc := s.gflg.getLsbD 1, done := 1 })
      check := 0, src := s.src.initBits, mode := .type }) ∧
    (v ≠ s.check → exec (.zlibAdler32 v) s = .next { s with msg := .e17, mode := .bad } ∧
      exec (.gzipCrc32 v) s = .next { s with msg := .e17, mode := .bad }) ∧
    (v = s.check → exec (.zlibAdler32 v) s = .next { s with src := s.src.initBits, mode := .length } ∧
      exec (.gzipCrc32 v) s = .next { s with src := s.src.initBits, mode := .length }) ∧
    (v.toNat ≠ (s.total.toNat + s.outBuf.length) % 2 ^ 32 →
      exec (.gzipIsize v) s = .next { s with msg := .e18, mode := .bad }) ∧
    (v.toNat = (s.total.toNat + s.outBuf.length) % 2 ^ 32 →
      exec (.gzipIsize v) s = .next { s with src := s.src.initBits, mode := .done })

/-- 42_blocks.md R251, R259, 30_encoding.md R115. -/
def Obligations.BlockHeaderResults : Prop :=
  ∀ (final : Bool) (s : State),
    exec (.blockStored final) s = .next { s with last := final, src := s.src.drop 3, mode := .stored } ∧
    exec (.blockDynamic final) s = .next { s with last := final, src := s.src.drop 3, mode := .table } ∧
    exec (.blockReserved final) s = .next { s with last := final, src := s.src.drop 3, msg := .e6, mode := .bad } ∧
    (s.flush ≠ .trees → exec (.blockFixed final) s = .next { s with
      last := final, src := s.src.drop 3, lcode := fixedLl, dcode := fixedDist, mode := .len_ }) ∧
    (s.flush = .trees → exec (.blockFixed final) s = .next (leave .ok { s with
      last := final, src := s.src.drop 3, lcode := fixedLl, dcode := fixedDist, mode := .len_ }))

/-- 42_blocks.md R252. -/
def Obligations.StoredHeaderResult : Prop :=
  ∀ (len nlen : U16) (s : State),
    (len ≠ nlen ^^^ 0xFFFF → exec (.storedLenNlen len nlen) s = .next { s with msg := .e7, mode := .bad }) ∧
    (len = nlen ^^^ 0xFFFF → s.flush ≠ .trees → exec (.storedLenNlen len nlen) s = .next { s with
      length := len.toNat, src := s.src.initBits, mode := .copy_ }) ∧
    (len = nlen ^^^ 0xFFFF → s.flush = .trees → exec (.storedLenNlen len nlen) s = .next (leave .ok { s with
      length := len.toNat, src := s.src.initBits, mode := .copy_ }))

/-- 42_blocks.md R254 with 20_memory.md R83. -/
def Obligations.StoredDataResult : Prop :=
  ∀ (data : List Byte) (s : State),
    exec (.storedData data) s = .next { s with
      outBuf := s.outBuf ++ data
      left := s.left - data.length
      check := if s.wrap = .none then s.check else dataUpdate s.fmt s.check data
      length := s.length - data.length }

/-- 42_blocks.md R255, R256, 30_encoding.md R117, R118. -/
def Obligations.DynamicCountsResult : Prop :=
  ∀ (hlit hdist : BitVec 5) (hclen : BitVec 4) (len : BitVec 3) (s : State),
    (29 < hlit.toNat ∨ 29 < hdist.toNat → exec (.dynCounts hlit hdist hclen) s = .next { s with
      nlen := hlit.toNat + 257, ndist := hdist.toNat + 1, ncode := hclen.toNat + 4, src := s.src.drop 14
      msg := .e8, mode := .bad }) ∧
    (hlit.toNat ≤ 29 → hdist.toNat ≤ 29 → exec (.dynCounts hlit hdist hclen) s = .next { s with
      nlen := hlit.toNat + 257, ndist := hdist.toNat + 1, ncode := hclen.toNat + 4, src := s.src.drop 14
      ncnt := 0, mode := .lenlens }) ∧
    exec (.dynCllen len) s = .next { s with
      src := s.src.drop 3, ncnt := s.ncnt + 1
      lens := s.lens.set
        ([16, 17, 18, 0, 8, 7, 9, 6, 10, 5, 11, 4, 12, 3, 13, 2, 14, 1, 15].getD s.ncnt 0) (len.setWidth 4) }

/-- 42_blocks.md R257, 30_encoding.md R119. -/
def Obligations.CodeLengthResults : Prop :=
  ∀ (cw : Codeword) (v : BitVec 4) (r2 : BitVec 2) (r3 : BitVec 3) (r7 : BitVec 7) (s : State),
    s.nlen + s.ndist ≤ s.lens.length →
    let put := fun (cnt : Nat) (len : BitVec 4) =>
      s.lens.take s.ncnt ++ List.replicate cnt len ++ s.lens.drop (s.ncnt + cnt)
    let fits := fun (cnt : Nat) => s.ncnt + cnt ≤ s.nlen + s.ndist
    let after := fun (n : Nat) => s.src.drop (cw.len + n)
    (fits 1 → exec (.clLength cw v) s = .next { s with src := after 0, lens := put 1 v, ncnt := s.ncnt + 1 }) ∧
    (s.ncnt = 0 → exec (.clRepeatPrev cw r2) s = .next { s with src := after 0, msg := .e10, mode := .bad }) ∧
    (s.ncnt ≠ 0 → ¬fits (3 + r2.toNat) →
      exec (.clRepeatPrev cw r2) s = .next { s with src := after 2, msg := .e10, mode := .bad }) ∧
    (s.ncnt ≠ 0 → fits (3 + r2.toNat) → exec (.clRepeatPrev cw r2) s = .next { s with
      src := after 2, lens := put (3 + r2.toNat) (s.lens.getD (s.ncnt - 1) 0), ncnt := s.ncnt + (3 + r2.toNat) }) ∧
    (¬fits (3 + r3.toNat) →
      exec (.clZeroShort cw r3) s = .next { s with src := after 3, msg := .e10, mode := .bad }) ∧
    (fits (3 + r3.toNat) → exec (.clZeroShort cw r3) s = .next { s with
      src := after 3, lens := put (3 + r3.toNat) 0, ncnt := s.ncnt + (3 + r3.toNat) }) ∧
    (¬fits (11 + r7.toNat) →
      exec (.clZeroLong cw r7) s = .next { s with src := after 7, msg := .e10, mode := .bad }) ∧
    (fits (11 + r7.toNat) → exec (.clZeroLong cw r7) s = .next { s with
      src := after 7, lens := put (11 + r7.toNat) 0, ncnt := s.ncnt + (11 + r7.toNat) })

/-- 42_blocks.md R256, R258. -/
def Obligations.TableBuildResults : Prop :=
  ∀ (s : State), s.running = true →
    (s.mode = .lenlens → s.ncode ≤ s.ncnt → s.ncnt ≤ 19 →
      let lens := ((List.range 19).drop s.ncnt).foldl (fun l i => l.set (clOrder.getD i 0) 0) s.lens
      (buildClCode ((lens.take 19).map BitVec.toNat) = none →
        step s = .next { s with lens := lens, ncnt := 19, msg := .e9, mode := .bad }) ∧
      (∀ c, buildClCode ((lens.take 19).map BitVec.toNat) = some c →
        step s = .next { s with lens := lens, ncnt := 0, clcode := c, mode := .codelens })) ∧
    (s.mode = .codelens → s.nlen + s.ndist ≤ s.ncnt →
      let ll := (s.lens.take s.nlen).map BitVec.toNat
      let dd := ((s.lens.drop s.nlen).take s.ndist).map BitVec.toNat
      (s.lens.getD 256 0 = 0 → step s = .next { s with msg := .e11, mode := .bad }) ∧
      (s.lens.getD 256 0 ≠ 0 → buildLlCode ll = none → step s = .next { s with msg := .e12, mode := .bad }) ∧
      (∀ l, s.lens.getD 256 0 ≠ 0 → buildLlCode ll = some l → buildDistCode dd = none →
        step s = .next { s with lcode := l, msg := .e13, mode := .bad }) ∧
      (∀ l d, s.lens.getD 256 0 ≠ 0 → buildLlCode ll = some l → buildDistCode dd = some d →
        step s = .next (if s.flush = .trees then leave .ok { s with lcode := l, dcode := d, mode := .len_ }
          else { s with lcode := l, dcode := d, mode := .len_ })))

/-- 44_symbols.md R351, R353, R356; fetch has dropped the codeword (43_huffman.md R313). -/
def Obligations.LiteralAndInvalidResults : Prop :=
  ∀ (cw : Codeword) (v : Byte) (s : State),
    (0 < s.left → exec (.literal cw v) s = .next { s with
      length := v.toNat, outBuf := s.outBuf ++ [v], left := s.left - 1
      check := if s.wrap = .none then s.check else dataUpdate s.fmt s.check [v]
      mode := .len }) ∧
    (s.left = 0 → exec (.literal cw v) s = .next (leave .ok { s with length := v.toNat, mode := .lit })) ∧
    exec (.endOfBlock cw) s = .next { s with mode := .type } ∧
    exec (.llInvalid cw) s = .next { s with msg := .e14, mode := .bad } ∧
    exec (.distInvalid cw) s = .next { s with msg := .e15, mode := .bad }

/-- 44_symbols.md R351, R352, 30_encoding.md R121, symbol by symbol. -/
def Obligations.LengthSymbolResults : Prop :=
  ∀ (cw : Codeword) (x1 : BitVec 1) (x2 : BitVec 2) (x3 : BitVec 3) (x4 : BitVec 4) (x5 : BitVec 5) (s : State),
    exec (.length257 cw) s = .next { s with length := 3, extra := 0, mode := .dist } ∧
    exec (.length258 cw) s = .next { s with length := 4, extra := 0, mode := .dist } ∧
    exec (.length259 cw) s = .next { s with length := 5, extra := 0, mode := .dist } ∧
    exec (.length260 cw) s = .next { s with length := 6, extra := 0, mode := .dist } ∧
    exec (.length261 cw) s = .next { s with length := 7, extra := 0, mode := .dist } ∧
    exec (.length262 cw) s = .next { s with length := 8, extra := 0, mode := .dist } ∧
    exec (.length263 cw) s = .next { s with length := 9, extra := 0, mode := .dist } ∧
    exec (.length264 cw) s = .next { s with length := 10, extra := 0, mode := .dist } ∧
    exec (.length265 cw x1) s = .next { s with length := 11 + x1.toNat, extra := 1, src := s.src.drop 1, mode := .dist } ∧
    exec (.length266 cw x1) s = .next { s with length := 13 + x1.toNat, extra := 1, src := s.src.drop 1, mode := .dist } ∧
    exec (.length267 cw x1) s = .next { s with length := 15 + x1.toNat, extra := 1, src := s.src.drop 1, mode := .dist } ∧
    exec (.length268 cw x1) s = .next { s with length := 17 + x1.toNat, extra := 1, src := s.src.drop 1, mode := .dist } ∧
    exec (.length269 cw x2) s = .next { s with length := 19 + x2.toNat, extra := 2, src := s.src.drop 2, mode := .dist } ∧
    exec (.length270 cw x2) s = .next { s with length := 23 + x2.toNat, extra := 2, src := s.src.drop 2, mode := .dist } ∧
    exec (.length271 cw x2) s = .next { s with length := 27 + x2.toNat, extra := 2, src := s.src.drop 2, mode := .dist } ∧
    exec (.length272 cw x2) s = .next { s with length := 31 + x2.toNat, extra := 2, src := s.src.drop 2, mode := .dist } ∧
    exec (.length273 cw x3) s = .next { s with length := 35 + x3.toNat, extra := 3, src := s.src.drop 3, mode := .dist } ∧
    exec (.length274 cw x3) s = .next { s with length := 43 + x3.toNat, extra := 3, src := s.src.drop 3, mode := .dist } ∧
    exec (.length275 cw x3) s = .next { s with length := 51 + x3.toNat, extra := 3, src := s.src.drop 3, mode := .dist } ∧
    exec (.length276 cw x3) s = .next { s with length := 59 + x3.toNat, extra := 3, src := s.src.drop 3, mode := .dist } ∧
    exec (.length277 cw x4) s = .next { s with length := 67 + x4.toNat, extra := 4, src := s.src.drop 4, mode := .dist } ∧
    exec (.length278 cw x4) s = .next { s with length := 83 + x4.toNat, extra := 4, src := s.src.drop 4, mode := .dist } ∧
    exec (.length279 cw x4) s = .next { s with length := 99 + x4.toNat, extra := 4, src := s.src.drop 4, mode := .dist } ∧
    exec (.length280 cw x4) s = .next { s with length := 115 + x4.toNat, extra := 4, src := s.src.drop 4, mode := .dist } ∧
    exec (.length281 cw x5) s = .next { s with length := 131 + x5.toNat, extra := 5, src := s.src.drop 5, mode := .dist } ∧
    exec (.length282 cw x5) s = .next { s with length := 163 + x5.toNat, extra := 5, src := s.src.drop 5, mode := .dist } ∧
    exec (.length283 cw x5) s = .next { s with length := 195 + x5.toNat, extra := 5, src := s.src.drop 5, mode := .dist } ∧
    exec (.length284 cw x5) s = .next { s with length := 227 + x5.toNat, extra := 5, src := s.src.drop 5, mode := .dist } ∧
    exec (.length285 cw) s = .next { s with length := 258, extra := 0, mode := .dist }

/-- 44_symbols.md R353, R354, 30_encoding.md R123, symbol by symbol; MATCH (R355) follows in the same step (log 1). -/
def Obligations.DistanceSymbolResults : Prop :=
  ∀ (cw : Codeword) (x1 : BitVec 1) (x2 : BitVec 2) (x3 : BitVec 3) (x4 : BitVec 4) (x5 : BitVec 5) (x6 : BitVec 6)
    (x7 : BitVec 7) (x8 : BitVec 8) (x9 : BitVec 9) (x10 : BitVec 10) (x11 : BitVec 11) (x12 : BitVec 12)
    (x13 : BitVec 13) (s : State),
    exec (.distance0 cw) s = .next (matchRule { s with
      offset := 1, extra := 0, mode := .matched }) ∧
    exec (.distance1 cw) s = .next (matchRule { s with
      offset := 2, extra := 0, mode := .matched }) ∧
    exec (.distance2 cw) s = .next (matchRule { s with
      offset := 3, extra := 0, mode := .matched }) ∧
    exec (.distance3 cw) s = .next (matchRule { s with
      offset := 4, extra := 0, mode := .matched }) ∧
    exec (.distance4 cw x1) s = .next (matchRule { s with
      offset := 5 + x1.toNat, extra := 1, src := s.src.drop 1, mode := .matched }) ∧
    exec (.distance5 cw x1) s = .next (matchRule { s with
      offset := 7 + x1.toNat, extra := 1, src := s.src.drop 1, mode := .matched }) ∧
    exec (.distance6 cw x2) s = .next (matchRule { s with
      offset := 9 + x2.toNat, extra := 2, src := s.src.drop 2, mode := .matched }) ∧
    exec (.distance7 cw x2) s = .next (matchRule { s with
      offset := 13 + x2.toNat, extra := 2, src := s.src.drop 2, mode := .matched }) ∧
    exec (.distance8 cw x3) s = .next (matchRule { s with
      offset := 17 + x3.toNat, extra := 3, src := s.src.drop 3, mode := .matched }) ∧
    exec (.distance9 cw x3) s = .next (matchRule { s with
      offset := 25 + x3.toNat, extra := 3, src := s.src.drop 3, mode := .matched }) ∧
    exec (.distance10 cw x4) s = .next (matchRule { s with
      offset := 33 + x4.toNat, extra := 4, src := s.src.drop 4, mode := .matched }) ∧
    exec (.distance11 cw x4) s = .next (matchRule { s with
      offset := 49 + x4.toNat, extra := 4, src := s.src.drop 4, mode := .matched }) ∧
    exec (.distance12 cw x5) s = .next (matchRule { s with
      offset := 65 + x5.toNat, extra := 5, src := s.src.drop 5, mode := .matched }) ∧
    exec (.distance13 cw x5) s = .next (matchRule { s with
      offset := 97 + x5.toNat, extra := 5, src := s.src.drop 5, mode := .matched }) ∧
    exec (.distance14 cw x6) s = .next (matchRule { s with
      offset := 129 + x6.toNat, extra := 6, src := s.src.drop 6, mode := .matched }) ∧
    exec (.distance15 cw x6) s = .next (matchRule { s with
      offset := 193 + x6.toNat, extra := 6, src := s.src.drop 6, mode := .matched }) ∧
    exec (.distance16 cw x7) s = .next (matchRule { s with
      offset := 257 + x7.toNat, extra := 7, src := s.src.drop 7, mode := .matched }) ∧
    exec (.distance17 cw x7) s = .next (matchRule { s with
      offset := 385 + x7.toNat, extra := 7, src := s.src.drop 7, mode := .matched }) ∧
    exec (.distance18 cw x8) s = .next (matchRule { s with
      offset := 513 + x8.toNat, extra := 8, src := s.src.drop 8, mode := .matched }) ∧
    exec (.distance19 cw x8) s = .next (matchRule { s with
      offset := 769 + x8.toNat, extra := 8, src := s.src.drop 8, mode := .matched }) ∧
    exec (.distance20 cw x9) s = .next (matchRule { s with
      offset := 1025 + x9.toNat, extra := 9, src := s.src.drop 9, mode := .matched }) ∧
    exec (.distance21 cw x9) s = .next (matchRule { s with
      offset := 1537 + x9.toNat, extra := 9, src := s.src.drop 9, mode := .matched }) ∧
    exec (.distance22 cw x10) s = .next (matchRule { s with
      offset := 2049 + x10.toNat, extra := 10, src := s.src.drop 10, mode := .matched }) ∧
    exec (.distance23 cw x10) s = .next (matchRule { s with
      offset := 3073 + x10.toNat, extra := 10, src := s.src.drop 10, mode := .matched }) ∧
    exec (.distance24 cw x11) s = .next (matchRule { s with
      offset := 4097 + x11.toNat, extra := 11, src := s.src.drop 11, mode := .matched }) ∧
    exec (.distance25 cw x11) s = .next (matchRule { s with
      offset := 6145 + x11.toNat, extra := 11, src := s.src.drop 11, mode := .matched }) ∧
    exec (.distance26 cw x12) s = .next (matchRule { s with
      offset := 8193 + x12.toNat, extra := 12, src := s.src.drop 12, mode := .matched }) ∧
    exec (.distance27 cw x12) s = .next (matchRule { s with
      offset := 12289 + x12.toNat, extra := 12, src := s.src.drop 12, mode := .matched }) ∧
    exec (.distance28 cw x13) s = .next (matchRule { s with
      offset := 16385 + x13.toNat, extra := 13, src := s.src.drop 13, mode := .matched }) ∧
    exec (.distance29 cw x13) s = .next (matchRule { s with
      offset := 24577 + x13.toNat, extra := 13, src := s.src.drop 13, mode := .matched })

/-- 45_window.md R408, with 44_symbols.md R355. -/
def Obligations.MatchCopiesWithThePeriod : Prop :=
  (∀ (d len : Nat) (s : State), 1 ≤ d → d ≤ reach s →
    copyBack d len s = memWriteAll ((List.range len).map (fun k => hist (d - k % d) s)) s) ∧
  (∀ s : State, 0 < s.left → 1 ≤ s.offset → s.offset ≤ reach s →
    let c := min s.length s.left
    let data := (List.range c).map (fun k => hist (s.offset - k % s.offset) s)
    matchRule s = { s with
      outBuf := s.outBuf ++ data
      left := s.left - c
      check := if s.wrap = .none then s.check else dataUpdate s.fmt s.check data
      length := s.length - c
      mode := if c = s.length then .len else s.mode })

/-- 44_symbols.md R355, 45_window.md R407, 60_exceptions.md R488 point 4. -/
def Obligations.MatchStops : Prop :=
  ∀ s : State,
    (s.left = 0 → matchRule s = leave .ok s) ∧
    (0 < s.left → s.outBuf.length + s.win.whave < s.offset → matchRule s = { s with msg := .e16, mode := .bad })

/-- 44_symbols.md R360. -/
def Obligations.CopyCasesAgree : Prop :=
  ∀ (dist len : Nat) (s : State), 1 ≤ dist → dist ≤ reach s →
    copyBack dist len s = memWriteAll (copyCases dist len s) s

/-- 45_window.md R403, R405. -/
def Obligations.WindowUpdateWritesTheRing : Prop :=
  ∀ (w : Window) (data : List Byte), w.wnext < w.wsize → w.whave ≤ w.wsize →
    (w.whave < w.wsize → w.wnext = w.whave) →
    (w.append data).wsize = w.wsize ∧
    (w.append data).wnext = (if w.wsize ≤ data.length then 0 else (w.wnext + data.length) % w.wsize) ∧
    (w.append data).whave = min w.wsize (w.whave + data.length) ∧
    ∀ a, ¬ w.writes data a → Memory.read (w.append data).ram a = Memory.read w.ram a

/-- 45_window.md R404, R406. -/
def Obligations.WindowKeepsTheHistory : Prop :=
  ∀ (w : Window) (data : List Byte) (j : Nat), w.wnext < w.wsize → w.whave ≤ w.wsize →
    (w.whave < w.wsize → w.wnext = w.whave) → 1 ≤ j → j ≤ (w.append data).whave →
    (w.append data).back j =
      if j ≤ data.length then data.getD (data.length - j) 0 else w.back (j - data.length)

/-- 46_host.md R450 with 45_window.md R402. The counter of allocation draws is the model's (log 6). -/
def Obligations.LeaveResult : Prop :=
  ∀ (r : Status) (s : State),
    let status := if r = .ok ∧ ((s.src.taken = 0 ∧ s.outBuf.length = 0) ∨ s.flush = .finish) then .bufError else r
    let allocates := s.win.wsize = 0 ∧ s.allocMayFail = true
    let draws := if allocates then s.allocDraws + 1 else s.allocDraws
    let idle := (⟨s.src.hold, s.src.bits, [], 0⟩ : BitStream)
    (s.outBuf = [] → leave r s = { s with
      totalIn := s.totalIn + BitVec.ofNat 64 s.src.taken
      running := false, reply := some ⟨status, s.src.taken, []⟩, src := idle, left := 0 }) ∧
    (s.outBuf ≠ [] → ¬(allocates ∧ Config.allocFails s.allocDraws = true) → leave r s = { s with
      win := (freshWindow s).append s.outBuf, allocDraws := draws
      totalIn := s.totalIn + BitVec.ofNat 64 s.src.taken
      totalOut := s.totalOut + BitVec.ofNat 64 s.outBuf.length
      total := s.total + BitVec.ofNat 32 s.outBuf.length
      running := false, reply := some ⟨status, s.src.taken, s.outBuf⟩, src := idle, left := 0, outBuf := [] }) ∧
    (s.outBuf ≠ [] → allocates → Config.allocFails s.allocDraws = true → leave r s = { s with
      mode := .mem, allocDraws := draws
      running := false, reply := some ⟨.memError, s.src.taken, s.outBuf⟩, src := idle, left := 0, outBuf := [] })

/-- 60_exceptions.md R484, R492. -/
def Obligations.MemUnreachableByDefault : Prop :=
  ∀ s t : State, s.allocMayFail = false → s.mode ≠ .mem → step s = .next t →
    t.mode ≠ .mem ∧ t.allocMayFail = false

/-- 46_host.md R441, R442, 10_state.md R52; log 4 for the unspecified fields, log 11 for INIT on a valid instance. -/
def Obligations.InitResult : Prop :=
  ∀ s : State,
    let created := fun (wrap : Wrap) (wbits : Nat) => { s with
      valid := true, wrap := wrap, wbits := wbits, mode := .head, last := false
      src := ⟨0, 0, s.src.input, s.src.taken⟩, fmt := .unknown, gflg := 0
      check := if wrap = .zlib ∨ wrap = .auto then 1 else 0
      hcheck := 0, havedict := false, win := ⟨s.win.ram, 0, 0, 0⟩, total := 0, totalIn := 0, totalOut := 0
      msg := .e0, head := none, reply := some ⟨.ok, 0, []⟩ : State }
    (∀ n : Nat, 8 ≤ n → n ≤ 15 →
      exec (.init (-(n : Int))) s = .next (created .none n) ∧ exec (.init (n : Int)) s = .next (created .zlib n) ∧
      exec (.init ((n : Int) + 16)) s = .next (created .gzip n) ∧
      exec (.init ((n : Int) + 32)) s = .next (created .auto n)) ∧
    exec (.init 0) s = .next (created .zlib 0) ∧ exec (.init 16) s = .next (created .gzip 0) ∧
    exec (.init 32) s = .next (created .auto 0) ∧
    (∀ w : Int, ¬(-15 ≤ w ∧ w ≤ -8) → w ≠ 0 → ¬(8 ≤ w ∧ w ≤ 16) → ¬(24 ≤ w ∧ w ≤ 32) → ¬(40 ≤ w ∧ w ≤ 47) →
      exec (.init w) s = .next { s with reply := some ⟨.streamError, 0, []⟩ })

/-- 70_reset_and_hazards.md R531, R532, 46_host.md R443; log 4 for the unspecified fields. -/
def Obligations.ResetResult : Prop :=
  ∀ (keep : Bool) (s : State), s.valid = true →
    exec (.reset keep) s = .next { s with
      mode := .head, last := false, src := ⟨0, 0, s.src.input, s.src.taken⟩, fmt := .unknown, gflg := 0
      check := if s.wrap = .zlib ∨ s.wrap = .auto then 1 else 0
      hcheck := 0, havedict := false, win := if keep then s.win else ⟨s.win.ram, 0, 0, 0⟩
      total := 0, totalIn := 0, totalOut := 0, msg := .e0, head := none, reply := some ⟨.ok, 0, []⟩ }

/-- 46_host.md R445, R447, 30_encoding.md R136. That a call in progress is state, and that the reply is taken back, are the model's (log 10). -/
def Obligations.InflateOpensACall : Prop :=
  ∀ (input : List Byte) (availOut : Nat) (s : State), s.valid = true →
    ∀ p ∈ [((0 : Byte), Flush.noFlush), (2, .syncFlush), (4, .finish), (5, .block), (6, .trees)],
      exec (.inflate input availOut p.1) s = .next { s with
        running := true, reply := none, src := ⟨s.src.hold, s.src.bits, input, 0⟩, left := availOut, outBuf := []
        flush := p.2, mode := if s.mode = .type then .typedo else s.mode }

/-- 46_host.md R452, R453, R454; log 6 for the draws, log 21 for the released window. -/
def Obligations.DictionaryHeaderTeardownResults : Prop :=
  ∀ (dict : List Byte) (r : HeaderRecord) (s : State), s.valid = true →
    let allocates := s.win.wsize = 0 ∧ s.allocMayFail = true
    let draws := if allocates then s.allocDraws + 1 else s.allocDraws
    (s.mode = .dict → adler32Update 1 dict ≠ s.check →
      exec (.setDictionary dict) s = .next { s with reply := some ⟨.dataError, 0, []⟩ }) ∧
    (s.mode = .dict → adler32Update 1 dict = s.check → ¬(allocates ∧ Config.allocFails s.allocDraws = true) →
      exec (.setDictionary dict) s = .next { s with
        win := (freshWindow s).append dict, havedict := true, allocDraws := draws, reply := some ⟨.ok, 0, []⟩ }) ∧
    (s.mode = .dict → adler32Update 1 dict = s.check → allocates → Config.allocFails s.allocDraws = true →
      exec (.setDictionary dict) s = .next { s with
        mode := .mem, allocDraws := draws, reply := some ⟨.memError, 0, []⟩ }) ∧
    (s.mode = .head → s.wrap = .gzip ∨ s.wrap = .auto →
      exec (.getHeader r) s = .next { s with head := some { r with done := 0 }, reply := some ⟨.ok, 0, []⟩ }) ∧
    exec .teardown s = .next { s with
      valid := false, head := none, win := ⟨s.win.ram, 0, 0, 0⟩, reply := some ⟨.ok, 0, []⟩ }

/-- 46_host.md R456, with R455. -/
def Obligations.ArgumentErrorsChangeNothing : Prop :=
  ∀ s : State,
    let refused := fun (i : Instr) => exec i s = .next { s with reply := some ⟨.streamError, 0, []⟩ }
    (∀ w : Int, ¬(-15 ≤ w ∧ w ≤ -8) → w ≠ 0 → ¬(8 ≤ w ∧ w ≤ 16) → ¬(24 ≤ w ∧ w ≤ 32) → ¬(40 ≤ w ∧ w ≤ 47) →
      refused (.init w)) ∧
    (s.valid = false → (∀ keep, refused (.reset keep)) ∧ (∀ input out f, refused (.inflate input out f)) ∧
      (∀ dict, refused (.setDictionary dict)) ∧ (∀ r, refused (.getHeader r)) ∧ refused .teardown) ∧
    (∀ input out (f : Byte), f ∉ [(0 : Byte), 2, 4, 5, 6] → refused (.inflate input out f)) ∧
    (s.mode ≠ .dict → ∀ dict, refused (.setDictionary dict)) ∧
    ((s.wrap = .none ∨ s.wrap = .zlib ∨ s.mode ≠ .head) → ∀ r, refused (.getHeader r))

/-- 46_host.md R457. -/
def Obligations.TerminalCallResult : Prop :=
  ∀ (s u : State) (input : List Byte) (availOut : Nat) (f : Byte) (mode : Flush),
    CallOk s → s.running = false → s.valid = true → flushOfCode f = some mode →
    exec (.inflate input availOut f) s = .next u →
    (s.mode = .done → step u = .next { s with flush := mode, reply := some ⟨.streamEnd, 0, []⟩ }) ∧
    (s.mode = .bad → step u = .next { s with flush := mode, reply := some ⟨.dataError, 0, []⟩ }) ∧
    (s.mode = .mem → step u = .next { s with flush := mode, reply := some ⟨.memError, 0, []⟩ })

/-- 60_exceptions.md R483, R484, R490, 41_wrapper.md R207: they name RESET and TEARDOWN as the exits. That INIT of a valid instance leaves DONE, BAD or MEM too is the model's choice (log 11, DEDUCED). -/
def Obligations.TerminalModesAreLeftOnlyByReset : Prop :=
  ∀ s t : State, s.mode = .done ∨ s.mode = .bad ∨ s.mode = .mem → step s = .next t →
    ((t.mode = s.mode ∨ t.mode = .mem ∧ s.allocMayFail = true) ∧ t.msg = s.msg) ∨
    (s.running = false ∧ ∃ rest, (∃ keep, s.commands = .reset keep :: rest) ∨ (∃ w, s.commands = .init w :: rest))

/-- 41_wrapper.md R191, R197 to R201, R203, R205 to R207, 42_blocks.md R250, R251, R253, R254, R260, 44_symbols.md R352, R354 to R356, 60_exceptions.md R483, R484. No run meets the E16 clause of DISTEXT (44_symbols.md R354, 60_exceptions.md R492). -/
def Obligations.ModesThatReadNothingMove : Prop :=
  ∀ s : State, s.running = true →
    (s.mode = .head → s.wrap = .none → step s = .next { s with mode := .typedo }) ∧
    (s.mode = .exlen → s.gflg.getLsbD 2 = false →
      step s = .next { s with head := s.head.map (fun r => { r with extra := none }), mode := .extra }) ∧
    (s.mode = .extra → s.gflg.getLsbD 2 = false ∨ s.length = 0 →
      step s = .next { s with length := 0, mode := .name }) ∧
    (s.mode = .name → s.gflg.getLsbD 3 = false →
      step s = .next { s with head := s.head.map (fun r => { r with name := none }), mode := .comment }) ∧
    (s.mode = .comment → s.gflg.getLsbD 4 = false →
      step s = .next { s with head := s.head.map (fun r => { r with comment := none }), mode := .hcrc }) ∧
    (s.mode = .hcrc → s.gflg.getLsbD 1 = false → step s = .next { s with
      head := s.head.map (fun r => { r with hcrc := false, done := 1 }), check := 0, mode := .type }) ∧
    (s.mode = .dict → s.havedict = false → step s = .next (leave .needDict s)) ∧
    (s.mode = .dict → s.havedict = true → step s = .next { s with check := 1, mode := .type }) ∧
    (s.mode = .type → s.flush = .block ∨ s.flush = .trees → step s = .next (leave .ok s)) ∧
    (s.mode = .type → s.flush ≠ .block → s.flush ≠ .trees → step s = .next { s with mode := .typedo }) ∧
    (s.mode = .typedo → s.last = true → step s = .next { s with src := s.src.byteBits, mode := .check }) ∧
    (s.mode = .copy_ → step s = .next { s with mode := .copy }) ∧
    (s.mode = .copy → s.length = 0 → step s = .next { s with mode := .type }) ∧
    (s.mode = .copy → s.length ≠ 0 → s.left = 0 → step s = .next (leave .ok s)) ∧
    (s.mode = .len_ → step s = .next { s with mode := .len }) ∧
    (s.mode = .lit → s.left = 0 → step s = .next (leave .ok s)) ∧
    (s.mode = .lit → 0 < s.left →
      step s = .next { memWrite (BitVec.ofNat 8 s.length) s with mode := .len }) ∧
    (s.mode = .matched → step s = .next (matchRule s)) ∧
    (∀ q, s.mode = .lenext → s.src.need s.extra = .held q → step s = .next { s with
      length := s.length + q.hold.toNat % 2 ^ s.extra, src := q.drop s.extra, mode := .dist }) ∧
    (∀ q, s.mode = .distext → s.src.need s.extra = .held q →
      s.offset + q.hold.toNat % 2 ^ s.extra ≤ Config.dMax → step s = .next (matchRule { s with
        offset := s.offset + q.hold.toNat % 2 ^ s.extra, src := q.drop s.extra, mode := .matched })) ∧
    (∀ q, s.mode = .distext → s.src.need s.extra = .held q →
      Config.dMax < s.offset + q.hold.toNat % 2 ^ s.extra → step s = .next { s with
        offset := s.offset + q.hold.toNat % 2 ^ s.extra, src := q.drop s.extra, msg := .e16, mode := .bad }) ∧
    (∀ q, s.mode = .lenext ∨ s.mode = .distext → s.src.need s.extra = .starved q →
      step s = .next (leave .ok { s with src := q })) ∧
    (s.mode = .check → s.wrap = .none → step s = .next { s with mode := .length }) ∧
    (s.mode = .length → s.wrap = .none ∨ s.fmt ≠ .gzip → step s = .next { s with mode := .done }) ∧
    (s.mode = .done → step s = .next (leave .streamEnd s)) ∧
    (s.mode = .bad → step s = .next (leave .dataError s)) ∧
    (s.mode = .mem → step s = .next (leave .memError s))

/-- 46_host.md R448, R440, 70_reset_and_hazards.md R542. The queue and the idle step are the model's (log 10). -/
def Obligations.StepRunsTheDecodedInstruction : Prop :=
  ∀ s : State,
    (s.running = true →
      (s.mode = .head → s.wrap ≠ .none → StepRuns (.head s.wrap) s) ∧
      (s.mode = .flags → StepRuns .flags s) ∧ (s.mode = .time → StepRuns .time s) ∧ (s.mode = .os → StepRuns .os s) ∧
      (s.mode = .exlen → s.gflg.getLsbD 2 = true → StepRuns .xlen s) ∧
      (s.mode = .extra → s.gflg.getLsbD 2 = true → 0 < s.length → StepRuns (.extra s.length) s) ∧
      (s.mode = .name → s.gflg.getLsbD 3 = true → StepRuns .name s) ∧
      (s.mode = .comment → s.gflg.getLsbD 4 = true → StepRuns .comment s) ∧
      (s.mode = .hcrc → s.gflg.getLsbD 1 = true → StepRuns .hcrc s) ∧ (s.mode = .dictid → StepRuns .dictid s) ∧
      (s.mode = .typedo → s.last = false → StepRuns .blockHeader s) ∧ (s.mode = .stored → StepRuns .storedLen s) ∧
      (s.mode = .copy → s.length ≠ 0 → s.left ≠ 0 → StepRuns (.storedData (min s.length s.left)) s) ∧
      (s.mode = .table → StepRuns .dynCounts s) ∧ (s.mode = .lenlens → s.ncnt < s.ncode → StepRuns .clLen s) ∧
      (s.mode = .codelens → s.ncnt < s.nlen + s.ndist → StepRuns (.codeLengths s.clcode) s) ∧
      (s.mode = .len → StepRuns (.litLen s.lcode) s) ∧ (s.mode = .dist → StepRuns (.distance s.dcode) s) ∧
      (s.mode = .check → s.wrap ≠ .none → s.fmt = .gzip → StepRuns .crc32 s) ∧
      (s.mode = .check → s.wrap ≠ .none → s.fmt ≠ .gzip → StepRuns .adler32 s) ∧
      (s.mode = .length → s.wrap ≠ .none → s.fmt = .gzip → StepRuns .isize s)) ∧
    (s.running = false → (s.commands = [] → step s = .next s) ∧
      ∀ c rest, s.commands = c :: rest → (decodeCommand c).wellFormed = true →
        step s = exec (decodeCommand c) { s with commands := rest })

/-- 10_state.md R51, R52, 70_reset_and_hazards.md R530. The configured windowBits 47 is the model's choice (log 2); the fields R52 leaves open are not named here. -/
def Obligations.ResetStateIsSafe : Prop :=
  Safe State.reset ∧ State.reset.valid = true ∧ State.reset.mode = .head ∧ State.reset.last = false ∧
  State.reset.src.hold = 0 ∧ State.reset.src.bits = 0 ∧ State.reset.fmt = .unknown ∧ State.reset.gflg = 0 ∧
  State.reset.check = (if State.reset.wrap = .zlib ∨ State.reset.wrap = .auto then 1 else 0) ∧
  State.reset.hcheck = 0 ∧ State.reset.havedict = false ∧ State.reset.win.wsize = 0 ∧ State.reset.win.whave = 0 ∧
  State.reset.win.wnext = 0 ∧ State.reset.total = 0 ∧ State.reset.totalIn = 0 ∧ State.reset.totalOut = 0 ∧
  State.reset.msg = .e0 ∧ State.reset.head = none

/-- 10_state.md R49, 46_host.md R445. -/
def Obligations.CallRegistersKept : Prop :=
  ∀ s t : State, CallOk s → step s = .next t → CallOk t

/-- 10_state.md R51, 40_bitstream.md R160, R169. -/
def Obligations.AccumulatorKept : Prop :=
  ∀ s t : State, AccumulatorOk s → step s = .next t → AccumulatorOk t

/-- 10_state.md R51; MEM may override BAD by 60_exceptions.md R488 (log 20). -/
def Obligations.ErrorModesKept : Prop :=
  ∀ s t : State, ErrorOk s → step s = .next t → ErrorOk t

/-- 10_state.md R51, R32, 45_window.md R401 to R405. -/
def Obligations.WindowKept : Prop :=
  ∀ s t : State, CallOk s → WindowOk s → step s = .next t → WindowOk t

/-- 40_bitstream.md R168, R169, R170, R172, 43_huffman.md R315, 10_state.md R42, R43. -/
def Obligations.DecodeBoundsKept : Prop :=
  ∀ s t : State, DecodeOk s → step s = .next t → DecodeOk t

/-- 40_bitstream.md R169: no PULLBYTE is executed with more than 24 bits held. The fault and the refusal are the model's (log 13, 14). -/
def Obligations.SafeStepsNeverFault : Prop :=
  ∀ s : State, Safe s →
    (∃ t, step s = .next t) ∨
    (step s = .refused .illFormedCommand ∧ s.running = false ∧
      ∃ c rest, s.commands = c :: rest ∧ (decodeCommand c).wellFormed = false)

/-- 40_bitstream.md R168; an element that fails in BAD keeps what it held (60_exceptions.md R482). -/
def Obligations.ElementBoundaryHoldsAtMostSevenBits : Prop :=
  ∀ (s t : State) (ctx : Context) (i : Instr) (q : BitStream), Safe s → s.running = true →
    action s = .read ctx → decode ctx s.src = .element i q → exec i { s with src := q } = .next t →
    t.mode ≠ .bad → t.src.bits ≤ 7

/-- 46_host.md R448: the loop always terminates. The bound is the model's. -/
def Obligations.EveryCallEnds : Prop :=
  ∀ s : State, Safe s → s.running = true →
    ∃ n t, n ≤ 40 * (8 * s.src.input.length + s.src.bits + s.left + 1) ∧ runSteps n s = some t ∧ t.running = false

/-- 44_symbols.md R357, R358, R359, R361. -/
def Obligations.FastPathRefinesTheSlowPath : Prop :=
  ∀ s : State, Safe s → s.running = true → s.mode = .len → fastSlack s = true →
    ∃ n t, runSteps n s = some t ∧ t.running = true ∧ sameButScratch t (fastPath s)

/-- 44_symbols.md R359. -/
def Obligations.TrimReturnsWholeBytes : Prop :=
  ∀ q : BitStream, q.wf → q.bits / 8 ≤ q.taken →
    (trim q).bits ≤ 7 ∧ (trim q).wf ∧ (trim q).stream = q.stream ∧
    (trim q).taken + q.bits / 8 = q.taken ∧ (trim q).input.length = q.input.length + q.bits / 8

/-- 46_host.md R470, R471, 20_memory.md R83. -/
def Obligations.ChecksumsAreIncremental : Prop :=
  (∀ (c : U32) (x y : List Byte), adler32Update (adler32Update c x) y = adler32Update c (x ++ y)) ∧
  (∀ (c : U32) (x y : List Byte), crc32Update (crc32Update c x) y = crc32Update c (x ++ y)) ∧
  (∀ (data : List Byte) (s : State),
    (memWriteAll data s).check = if s.wrap = .none then s.check else dataUpdate s.fmt s.check data)

/-- 20_memory.md R81, R84, 46_host.md R445. -/
def Obligations.InputInOrderOutputKept : Prop :=
  ∀ s t : State, s.running = true → step s = .next t →
    (t.running = true →
      (∃ k, k ≤ s.src.input.length ∧ t.src.input = s.src.input.drop k ∧ t.src.taken = s.src.taken + k) ∧
      s.outBuf <+: t.outBuf ∧ t.outBuf.length + t.left = s.outBuf.length + s.left) ∧
    (t.running = false → ∃ r, t.reply = some r ∧ s.outBuf <+: r.output ∧
      r.output.length ≤ s.outBuf.length + s.left ∧ s.src.taken ≤ r.consumed ∧
      r.consumed ≤ s.src.taken + s.src.input.length)

/-- 45_window.md R403 (the update never runs during a call), 10_state.md R30 (written by), R31, 60_exceptions.md R482. -/
def Obligations.FramesOfStreamElements : Prop :=
  ∀ (i : Instr) (s t : State), i.isCommand = false → exec i s = .next t →
    (t.valid = s.valid ∧ t.wrap = s.wrap ∧ t.havedict = s.havedict ∧ t.flush = s.flush ∧ t.commands = s.commands ∧
      t.allocMayFail = s.allocMayFail) ∧
    (i.mayOutput = false → t.win = s.win ∧ (∀ a, Memory.read t.win.ram a = Memory.read s.win.ram a) ∧
      t.outBuf = s.outBuf ∧ t.left = s.left ∧ t.total = s.total ∧ t.totalIn = s.totalIn ∧ t.totalOut = s.totalOut ∧
      t.reply = s.reply ∧ t.running = s.running) ∧
    (i.mayOutput = true → t.head = s.head ∧ t.hcheck = s.hcheck ∧ t.gflg = s.gflg ∧ t.fmt = s.fmt ∧
      t.wbits = s.wbits ∧ t.lens = s.lens ∧ t.ncnt = s.ncnt ∧ t.clcode = s.clcode) ∧
    (i.mayOutput = true → s.running = true → t.running = true → t.win = s.win ∧ t.total = s.total ∧
      t.totalIn = s.totalIn ∧ t.totalOut = s.totalOut ∧ t.reply = s.reply) ∧
    (i.mayOutput = true → s.win.wnext < s.win.wsize ∨ s.win.wsize = 0 → ∀ a, ¬ (freshWindow s).writes s.outBuf a →
      Memory.read t.win.ram a = Memory.read s.win.ram a)

/-- 45_window.md R403, 10_state.md R31, R32. -/
def Obligations.WindowAndConfigurationFrame : Prop :=
  ∀ s t : State, step s = .next t →
    (s.running = true → t.running = true → t.win = s.win) ∧
    (t.wrap ≠ s.wrap ∨ s.wbits ≠ 0 ∧ t.wbits ≠ s.wbits →
      s.running = false ∧ ∃ w rest, s.commands = .init w :: rest) ∧
    t.allocMayFail = s.allocMayFail
end

