-- ==== Sys2Proof/Laws/BitStream.lean ====
section
/-! SUPPORT. The laws of the accumulator: each operation keeps `bits <= 32` and `hold < 2^bits` and keeps the stream it stands for, and one lemma each for everything NEED and DecodePeek can answer. -/

namespace Sys2Proof

namespace BitStream

@[simp] theorem drop_bits (n : Nat) (q : BitStream) : (q.drop n).bits = q.bits - n := rfl
@[simp] theorem drop_hold (n : Nat) (q : BitStream) : (q.drop n).hold = q.hold >>> n := rfl
@[simp] theorem drop_input (n : Nat) (q : BitStream) : (q.drop n).input = q.input := rfl
@[simp] theorem drop_taken (n : Nat) (q : BitStream) : (q.drop n).taken = q.taken := rfl
@[simp] theorem initBits_bits (q : BitStream) : q.initBits.bits = 0 := rfl
@[simp] theorem initBits_hold (q : BitStream) : q.initBits.hold = 0 := rfl
@[simp] theorem initBits_input (q : BitStream) : q.initBits.input = q.input := rfl
@[simp] theorem initBits_taken (q : BitStream) : q.initBits.taken = q.taken := rfl
@[simp] theorem pullByte_bits (b : Byte) (rest : List Byte) (q : BitStream) :
    (q.pullByte b rest).bits = q.bits + 8 := rfl
@[simp] theorem pullByte_input (b : Byte) (rest : List Byte) (q : BitStream) :
    (q.pullByte b rest).input = rest := rfl
@[simp] theorem pullByte_taken (b : Byte) (rest : List Byte) (q : BitStream) :
    (q.pullByte b rest).taken = q.taken + 1 := rfl
@[simp] theorem takeBytes_bits (n : Nat) (q : BitStream) : (q.takeBytes n).bits = q.bits := rfl
@[simp] theorem takeBytes_hold (n : Nat) (q : BitStream) : (q.takeBytes n).hold = q.hold := rfl
@[simp] theorem takeBytes_input (n : Nat) (q : BitStream) : (q.takeBytes n).input = q.input.drop n := rfl

@[simp] theorem drop_zero (q : BitStream) : q.drop 0 = q := by simp [drop]

theorem drop_wf {q : BitStream} (h : q.wf) (n : Nat) : (q.drop n).wf := by
  obtain ⟨hb, hh⟩ := h
  refine ⟨by simp only [drop_bits]; omega, ?_⟩
  simp only [drop_hold, drop_bits, BitVec.toNat_ushiftRight, Nat.shiftRight_eq_div_pow]
  rcases Nat.le_total n q.bits with hn | hn
  · rw [Nat.div_lt_iff_lt_mul (by positivity), ← pow_add]
    simpa [Nat.sub_add_cancel hn] using hh
  · rw [Nat.div_eq_of_lt (lt_of_lt_of_le hh (Nat.pow_le_pow_right (by omega) hn))]
    positivity

theorem initBits_wf (q : BitStream) : q.initBits.wf := ⟨by simp, by simp⟩

theorem byteBits_wf {q : BitStream} (h : q.wf) : q.byteBits.wf := drop_wf h _

theorem takeBytes_wf {q : BitStream} (h : q.wf) (n : Nat) : (q.takeBytes n).wf := h

/-- The value of `hold` after a pull, with no wrap (40_bitstream.md R161). -/
theorem pullByte_hold {q : BitStream} (h : q.wf) (hb : q.bits ≤ 24) (b : Byte) (rest : List Byte) :
    (q.pullByte b rest).hold.toNat = q.hold.toNat + b.toNat * 2 ^ q.bits := by
  have h1 : q.hold.toNat < 2 ^ q.bits := h.2
  have h2 : b.toNat * 2 ^ q.bits ≤ 255 * 2 ^ q.bits := Nat.mul_le_mul_right _ (by have := b.isLt; omega)
  have h3 : (2 : Nat) ^ q.bits ≤ 2 ^ 24 := Nat.pow_le_pow_right (by omega) hb
  have h4 : b.toNat * 2 ^ q.bits < 2 ^ 32 := by omega
  simp only [pullByte, BitVec.toNat_add, BitVec.toNat_shiftLeft, Nat.shiftLeft_eq, BitVec.toNat_setWidth]
  rw [Nat.mod_eq_of_lt (show b.toNat < 2 ^ 32 by have := b.isLt; omega), Nat.mod_eq_of_lt h4, Nat.mod_eq_of_lt]
  omega

theorem pullByte_wf {q : BitStream} (h : q.wf) (hb : q.bits ≤ 24) (b : Byte) (rest : List Byte) :
    (q.pullByte b rest).wf := by
  refine ⟨by simp only [pullByte_bits]; omega, ?_⟩
  rw [pullByte_hold h hb, pullByte_bits, pow_add]
  have h1 : q.hold.toNat < 2 ^ q.bits := h.2
  have h2 : b.toNat * 2 ^ q.bits ≤ 255 * 2 ^ q.bits := Nat.mul_le_mul_right _ (by have := b.isLt; omega)
  omega

/-- `q'` is `q` after its next `k` input bytes have been pulled. -/
structure Pulled (k : Nat) (q q' : BitStream) : Prop where
  le : k ≤ q.input.length
  bits : q'.bits = q.bits + 8 * k
  input : q'.input = q.input.drop k
  taken : q'.taken = q.taken + k
  wf : q.wf → q'.wf

theorem Pulled.refl (q : BitStream) : Pulled 0 q q := ⟨by omega, by omega, by simp, by omega, id⟩

theorem Pulled.pull {q q' : BitStream} {b : Byte} {rest : List Byte} {k : Nat} (hi : q.input = b :: rest)
    (hb : q.bits ≤ 24) (h : Pulled k (q.pullByte b rest) q') : Pulled (k + 1) q q' where
  le := by have := h.le; simp [hi] at this ⊢; omega
  bits := by have := h.bits; simp at this; omega
  input := by have := h.input; simpa [hi] using this
  taken := by have := h.taken; simp at this; omega
  wf := fun hq => h.wf (pullByte_wf hq hb b rest)

/-- Everything NEED(n) can answer (R162, R167, R169). -/
theorem need_cases (n : Nat) (q : BitStream) :
    (∃ k q', q.need n = .held q' ∧ Pulled k q q' ∧ n ≤ q'.bits ∧ (k = 0 ∨ q'.bits < n + 8)) ∨
    (∃ q', q.need n = .starved q' ∧ Pulled q.input.length q q' ∧ q'.bits < n) ∨
    (q.need n = .overflow ∧ ∃ k ≤ q.input.length, 24 < q.bits + 8 * k ∧ q.bits + 8 * k < n) := by
  suffices h : ∀ l q, q.input = l →
      (∃ k q', needFrom n l q = .held q' ∧ Pulled k q q' ∧ n ≤ q'.bits ∧ (k = 0 ∨ q'.bits < n + 8)) ∨
      (∃ q', needFrom n l q = .starved q' ∧ Pulled l.length q q' ∧ q'.bits < n) ∨
      (needFrom n l q = .overflow ∧ ∃ k ≤ l.length, 24 < q.bits + 8 * k ∧ q.bits + 8 * k < n) from h _ q rfl
  intro l
  induction l with
  | nil =>
    intro q hi
    by_cases hn : n ≤ q.bits
    · exact .inl ⟨0, q, by simp [needFrom, hn], Pulled.refl q, hn, .inl rfl⟩
    · exact .inr (.inl ⟨q, by simp [needFrom, hn], Pulled.refl q, by omega⟩)
  | cons b rest ih =>
    intro q hi
    by_cases hn : n ≤ q.bits
    · exact .inl ⟨0, q, by simp [needFrom, hn], Pulled.refl q, hn, .inl rfl⟩
    by_cases hb : 24 < q.bits
    · exact .inr (.inr ⟨by simp [needFrom, hn, hb], 0, by omega, by omega, by omega⟩)
    have e : needFrom n (b :: rest) q = needFrom n rest (q.pullByte b rest) := by simp [needFrom, hn, hb]
    rcases ih (q.pullByte b rest) rfl with ⟨k, q', h1, h2, h3, h4⟩ | ⟨q', h1, h2, h3⟩ | ⟨h1, k, h2, h3, h4⟩
    · refine .inl ⟨k + 1, q', by rw [e, h1], h2.pull hi (by omega), h3, .inr ?_⟩
      have := h2.bits
      simp only [pullByte_bits] at this
      omega
    · exact .inr (.inl ⟨q', by rw [e, h1], by simpa using h2.pull hi (by omega), h3⟩)
    · simp only [pullByte_bits] at h3 h4
      exact .inr (.inr ⟨by rw [e, h1], k + 1, by simpa using h2, by omega, by omega⟩)

end BitStream

/-! ### DecodePeek -/

/-- Everything the inner loop of DecodePeek can answer. -/
theorem Code.firstMatch_some {ε : Type} {c : Code ε} {hold a n : Nat} {r : Codeword × ε}
    (h : c.firstMatch hold a n = some r) :
    ∃ w, a ≤ w ∧ w < a + n ∧ r.1 = heldCodeword hold w ∧ c.lookup r.1 = some r.2 ∧
      ∀ v, a ≤ v → v < w → c.lookup (heldCodeword hold v) = none := by
  induction n generalizing a with
  | zero => simp [Code.firstMatch] at h
  | succ n ih =>
    simp only [Code.firstMatch] at h
    split at h
    · next e he =>
      cases h
      exact ⟨a, le_refl _, by omega, rfl, he, fun v h1 h2 => by omega⟩
    · next he =>
      obtain ⟨w, h1, h2, h3, h4, h5⟩ := ih h
      refine ⟨w, by omega, by omega, h3, h4, fun v hv hw => ?_⟩
      rcases Nat.eq_or_lt_of_le hv with rfl | hv
      · exact he
      · exact h5 v hv hw

theorem Code.firstMatch_none {ε : Type} {c : Code ε} {hold a n : Nat} :
    c.firstMatch hold a n = none ↔ ∀ v, a ≤ v → v < a + n → c.lookup (heldCodeword hold v) = none := by
  induction n generalizing a with
  | zero => simp only [Code.firstMatch, true_iff]; intro v h1 h2; omega
  | succ n ih =>
    simp only [Code.firstMatch]
    split
    · next e he =>
      simp only [reduceCtorEq, false_iff, not_forall]
      exact ⟨a, le_refl _, by omega, by simp [he]⟩
    · next he =>
      rw [ih]
      constructor
      · intro h v h1 h2
        rcases Nat.eq_or_lt_of_le h1 with rfl | h1
        · exact he
        · exact h v h1 (by omega)
      · intro h v h1 h2
        exact h v (by omega) (by omega)

/-- A held codeword has a width from 1 to what is held, at most 15. -/
theorem Code.held_width {ε : Type} {c : Code ε} {q : BitStream} {cw : Codeword} {e : ε}
    (h : c.held q = some (cw, e)) : 1 ≤ cw.len ∧ cw.len ≤ q.bits ∧ cw.len ≤ Config.maxBits := by
  obtain ⟨w, h1, h2, h3, -, -⟩ := Code.firstMatch_some h
  simp only at h3
  subst h3
  simp only [heldCodeword]
  omega

/-- A code that covers every pattern holds a codeword as soon as 15 bits are held (43_huffman.md R315). -/
theorem Code.covers.held {ε : Type} {c : Code ε} (h : c.covers) {q : BitStream} (hb : Config.maxBits ≤ q.bits) :
    c.held q ≠ none := by
  have := h q.hold.toNat
  unfold Code.held
  rw [Nat.min_eq_right hb]
  intro hn
  simp [hn] at this

/-- A pull leaves the bits already held as they are. -/
theorem BitStream.pullByte_low {p : BitStream} (hb : p.bits ≤ 24) (b : Byte) (rest : List Byte) {w : Nat}
    (hw : w ≤ p.bits) : (p.pullByte b rest).hold.toNat % 2 ^ w = p.hold.toNat % 2 ^ w := by
  have h32 : (2 : Nat) ^ w ∣ 2 ^ 32 := pow_dvd_pow 2 (by omega)
  simp only [BitStream.pullByte, BitVec.toNat_add, BitVec.toNat_shiftLeft, Nat.shiftLeft_eq]
  rw [Nat.mod_mod_of_dvd _ h32, Nat.add_mod, Nat.mod_mod_of_dvd _ h32,
    Nat.mod_eq_zero_of_dvd (Dvd.dvd.mul_left (pow_dvd_pow 2 hw) _)]
  simp

/-- Everything DecodePeek can answer (43_huffman.md R315). A codeword found after a pull was not held before it, so
at most 7 bits are left behind it (40_bitstream.md R168). -/
theorem decodePeek_cases {ε : Type} (c : Code ε) (q : BitStream) :
    (∃ k q' cw e, decodePeek c q = .found cw e q' ∧ BitStream.Pulled k q q' ∧ c.held q' = some (cw, e) ∧
      (k = 0 ∧ q' = q ∨ c.held q = none ∧ q'.bits < cw.len + 8)) ∨
    (∃ q', decodePeek c q = .starved q' ∧ BitStream.Pulled q.input.length q q' ∧ c.held q' = none) ∨
    (decodePeek c q = .overflow ∧ ∃ q' : BitStream, 24 < q'.bits ∧ c.held q' = none) := by
  suffices h : ∀ l q, q.input = l →
      (∃ k q' cw e, peekFrom c l q = .found cw e q' ∧ BitStream.Pulled k q q' ∧ c.held q' = some (cw, e) ∧
        (k = 0 ∧ q' = q ∨ c.held q = none ∧ q'.bits < cw.len + 8)) ∨
      (∃ q', peekFrom c l q = .starved q' ∧ BitStream.Pulled l.length q q' ∧ c.held q' = none) ∨
      (peekFrom c l q = .overflow ∧ ∃ q' : BitStream, 24 < q'.bits ∧ c.held q' = none) from h _ q rfl
  intro l
  induction l with
  | nil =>
    intro q hi
    cases hc : c.held q with
    | none => exact .inr (.inl ⟨q, by simp [peekFrom, hc], BitStream.Pulled.refl q, hc⟩)
    | some r =>
      exact .inl ⟨0, q, r.1, r.2, by simp [peekFrom, hc], BitStream.Pulled.refl q, by simp [hc], .inl ⟨rfl, rfl⟩⟩
  | cons b rest ih =>
    intro q hi
    cases hc : c.held q with
    | some r =>
      exact .inl ⟨0, q, r.1, r.2, by simp [peekFrom, hc], BitStream.Pulled.refl q, by simp [hc], .inl ⟨rfl, rfl⟩⟩
    | none =>
      by_cases hb : 24 < q.bits
      · exact .inr (.inr ⟨by simp [peekFrom, hc, hb], q, hb, hc⟩)
      have e : peekFrom c (b :: rest) q = peekFrom c rest (q.pullByte b rest) := by simp [peekFrom, hc, hb]
      rcases ih (q.pullByte b rest) rfl with ⟨k, q', cw, en, h1, h2, h3, h4⟩ | ⟨q', h1, h2, h3⟩ | ⟨h1, h2⟩
      · refine .inl ⟨k + 1, q', cw, en, by rw [e, h1], h2.pull hi (by omega), h3, .inr ⟨rfl, ?_⟩⟩
        rcases h4 with ⟨-, rfl⟩ | ⟨-, h4⟩
        · by_contra hw
          obtain ⟨w, w1, -, w3, w4, -⟩ := Code.firstMatch_some h3
          have wl := (Code.held_width h3).2.2
          simp only at w3 w4
          subst w3
          simp only [heldCodeword, BitStream.pullByte_bits, not_lt] at hw wl
          have hn := Code.firstMatch_none.1 hc w w1 (by omega)
          rw [heldCodeword, BitStream.pullByte_low (by omega) b rest (show w ≤ q.bits by omega),
            ← heldCodeword, hn] at w4
          cases w4
        · exact h4
      · exact .inr (.inl ⟨q', by rw [e, h1], by simpa using h2.pull hi (by omega), h3⟩)
      · exact .inr (.inr ⟨by rw [e, h1], h2⟩)

end Sys2Proof
end

