-- ==== Sys2Proof/Laws/Memory.lean ====
section
/-! SUPPORT. The laws of byte memories: a write keeps the canonical form, reads back what it wrote, and leaves every other address alone. -/

namespace Sys2Proof.Machine

theorem Memory.reset_wf : Memory.wf State.reset.win.ram := ⟨List.Pairwise.nil, fun _ h => absurd h List.not_mem_nil⟩

/-- The cells of a run lie inside the run and list nothing that an unlisted address reads as. -/
theorem Memory.cells_mem {a : Nat} {data : List Byte} {c : Host.Cell} (h : c ∈ Memory.cells a data) :
    a ≤ c.1 ∧ c.1 < a + data.length ∧ c.2 ≠ Memory.unlisted := by
  induction data generalizing a with
  | nil => simp [Memory.cells] at h
  | cons b bs ih =>
    simp only [Memory.cells] at h
    split at h
    · obtain ⟨h1, h2, h3⟩ := ih h
      simp only [List.length_cons]
      exact ⟨by omega, by omega, h3⟩
    · rcases List.mem_cons.1 h with rfl | h
      · exact ⟨le_refl _, by simp, by assumption⟩
      · obtain ⟨h1, h2, h3⟩ := ih h
        simp only [List.length_cons]
        exact ⟨by omega, by omega, h3⟩

theorem Memory.cells_sorted (a : Nat) (data : List Byte) :
    (Memory.cells a data).Pairwise (fun x y => x.1 < y.1) := by
  induction data generalizing a with
  | nil => exact List.Pairwise.nil
  | cons b bs ih =>
    simp only [Memory.cells]
    split
    · exact ih _
    · exact List.Pairwise.cons (fun c hc => by have := (Memory.cells_mem hc).1; simp only; omega) (ih _)

/-- A write keeps the canonical form. -/
theorem Memory.write_wf {m : Memory} (h : Memory.wf m) (a : Nat) (data : List Byte) :
    Memory.wf (Memory.write m a data) := by
  obtain ⟨hs, hn⟩ := h
  refine ⟨?_, ?_⟩
  · simp only [Memory.write, List.append_assoc, List.pairwise_append, List.mem_append, List.mem_filter,
      decide_eq_true_eq]
    refine ⟨hs.filter _, ⟨Memory.cells_sorted _ _, hs.filter _, ?_⟩, ?_⟩
    · intro x hx y hy
      have := (Memory.cells_mem hx).2.1
      omega
    · rintro x ⟨-, hx⟩ y (hy | ⟨-, hy⟩)
      · have := (Memory.cells_mem hy).1
        omega
      · omega
  · intro c hc
    simp only [Memory.write, List.mem_append, List.mem_filter] at hc
    rcases hc with (⟨h1, -⟩ | h1) | ⟨h1, -⟩
    · exact hn c h1
    · exact (Memory.cells_mem h1).2.2
    · exact hn c h1

theorem Memory.find_filter (m : Memory) (p : Host.Cell → Bool) (x : Nat)
    (h : ∀ c : Host.Cell, c.1 = x → p c = true) :
    (m.filter p).find? (fun c => c.1 == x) = m.find? (fun c => c.1 == x) := by
  induction m with
  | nil => rfl
  | cons c m ih =>
    by_cases hc : c.1 = x
    · simp [h c hc, hc]
    · rw [List.find?_cons_of_neg (by simpa using hc), List.filter_cons]
      split
      · rw [List.find?_cons_of_neg (by simpa using hc), ih]
      · exact ih

theorem Memory.find_filter_none (m : Memory) (p : Host.Cell → Bool) (x : Nat)
    (h : ∀ c : Host.Cell, c.1 = x → p c = false) : (m.filter p).find? (fun c => c.1 == x) = none := by
  simp only [List.find?_eq_none, List.mem_filter, beq_iff_eq]
  rintro c ⟨-, hp⟩ rfl
  simp [h c rfl] at hp

theorem Memory.find_cells_outside {a : Nat} {data : List Byte} {x : Nat} (h : x < a ∨ a + data.length ≤ x) :
    (Memory.cells a data).find? (fun c => c.1 == x) = none := by
  simp only [List.find?_eq_none, beq_iff_eq]
  rintro c hc rfl
  have := Memory.cells_mem hc
  omega

/-- An address outside the run reads as before. -/
theorem Memory.read_write_outside {m : Memory} {a x : Nat} {data : List Byte} (h : x < a ∨ a + data.length ≤ x) :
    Memory.read (Memory.write m a data) x = Memory.read m x := by
  unfold Memory.read Memory.write
  rw [List.find?_append, List.find?_append, Memory.find_cells_outside h]
  rcases h with h | h
  · rw [Memory.find_filter m _ x (by intro c hc; simpa [hc] using h),
      Memory.find_filter_none m _ x (by intro c hc; simp [hc]; omega)]
    simp
  · rw [Memory.find_filter_none m _ x (by intro c hc; simp [hc]; omega),
      Memory.find_filter m _ x (by intro c hc; simpa [hc] using h)]
    simp

theorem Memory.read_cells (a : Nat) (data : List Byte) (k : Nat) (hk : k < data.length) :
    Memory.read (Memory.cells a data) (a + k) = data[k] := by
  induction data generalizing a k with
  | nil => simp at hk
  | cons b bs ih =>
    simp only [Memory.cells]
    cases k with
    | zero =>
      split
      · next hb =>
        unfold Memory.read
        rw [Memory.find_cells_outside (by omega)]
        simp [hb]
      · simp [Memory.read]
    | succ k =>
      have hk' : k < bs.length := by simpa using hk
      have := ih (a + 1) k hk'
      split
      · rw [show a + (k + 1) = a + 1 + k by omega, this]
        simp
      · unfold Memory.read at this ⊢
        rw [List.find?_cons_of_neg (by simp), show a + (k + 1) = a + 1 + k by omega, this]
        simp

/-- An address inside the run reads as the byte written there. -/
theorem Memory.read_write_inside {m : Memory} {a k : Nat} {data : List Byte} (hk : k < data.length) :
    Memory.read (Memory.write m a data) (a + k) = data[k] := by
  rw [← Memory.read_cells a data k hk]
  unfold Memory.read Memory.write
  rw [List.find?_append, List.find?_append,
    Memory.find_filter_none m _ (a + k) (by intro c hc; simp [hc]),
    Memory.find_filter_none m _ (a + k) (by intro c hc; simp [hc]; omega)]
  simp

/-- Every address a write lists was listed before or lies in the run. -/
theorem Memory.write_mem {m : Memory} {a : Nat} {data : List Byte} {c : Host.Cell}
    (h : c ∈ Memory.write m a data) : c ∈ m ∨ a ≤ c.1 ∧ c.1 < a + data.length := by
  simp only [Memory.write, List.mem_append, List.mem_filter] at h
  rcases h with (⟨h, -⟩ | h) | ⟨h, -⟩
  · exact .inl h
  · exact .inr ⟨(Memory.cells_mem h).1, (Memory.cells_mem h).2.1⟩
  · exact .inl h

end Sys2Proof.Machine
end

