-- ==== Sys2Proof/Laws/State.lean ====
section
/-! SUPPORT. One lemma per field per shared update of the state, so that no later proof unfolds a record update. -/

namespace Sys2Proof.Machine

/-! ### State.goto -/

@[simp] theorem State.goto_valid (m : Mode) (s : State) : (s.goto m).valid = s.valid := rfl
@[simp] theorem State.goto_wrap (m : Mode) (s : State) : (s.goto m).wrap = s.wrap := rfl
@[simp] theorem State.goto_wbits (m : Mode) (s : State) : (s.goto m).wbits = s.wbits := rfl
@[simp] theorem State.goto_mode (m : Mode) (s : State) : (s.goto m).mode = m := rfl
@[simp] theorem State.goto_last (m : Mode) (s : State) : (s.goto m).last = s.last := rfl
@[simp] theorem State.goto_fmt (m : Mode) (s : State) : (s.goto m).fmt = s.fmt := rfl
@[simp] theorem State.goto_gflg (m : Mode) (s : State) : (s.goto m).gflg = s.gflg := rfl
@[simp] theorem State.goto_check (m : Mode) (s : State) : (s.goto m).check = s.check := rfl
@[simp] theorem State.goto_hcheck (m : Mode) (s : State) : (s.goto m).hcheck = s.hcheck := rfl
@[simp] theorem State.goto_havedict (m : Mode) (s : State) : (s.goto m).havedict = s.havedict := rfl
@[simp] theorem State.goto_length (m : Mode) (s : State) : (s.goto m).length = s.length := rfl
@[simp] theorem State.goto_offset (m : Mode) (s : State) : (s.goto m).offset = s.offset := rfl
@[simp] theorem State.goto_extra (m : Mode) (s : State) : (s.goto m).extra = s.extra := rfl
@[simp] theorem State.goto_nlen (m : Mode) (s : State) : (s.goto m).nlen = s.nlen := rfl
@[simp] theorem State.goto_ndist (m : Mode) (s : State) : (s.goto m).ndist = s.ndist := rfl
@[simp] theorem State.goto_ncode (m : Mode) (s : State) : (s.goto m).ncode = s.ncode := rfl
@[simp] theorem State.goto_ncnt (m : Mode) (s : State) : (s.goto m).ncnt = s.ncnt := rfl
@[simp] theorem State.goto_lens (m : Mode) (s : State) : (s.goto m).lens = s.lens := rfl
@[simp] theorem State.goto_lcode (m : Mode) (s : State) : (s.goto m).lcode = s.lcode := rfl
@[simp] theorem State.goto_dcode (m : Mode) (s : State) : (s.goto m).dcode = s.dcode := rfl
@[simp] theorem State.goto_clcode (m : Mode) (s : State) : (s.goto m).clcode = s.clcode := rfl
@[simp] theorem State.goto_win (m : Mode) (s : State) : (s.goto m).win = s.win := rfl
@[simp] theorem State.goto_total (m : Mode) (s : State) : (s.goto m).total = s.total := rfl
@[simp] theorem State.goto_totalIn (m : Mode) (s : State) : (s.goto m).totalIn = s.totalIn := rfl
@[simp] theorem State.goto_totalOut (m : Mode) (s : State) : (s.goto m).totalOut = s.totalOut := rfl
@[simp] theorem State.goto_msg (m : Mode) (s : State) : (s.goto m).msg = s.msg := rfl
@[simp] theorem State.goto_head (m : Mode) (s : State) : (s.goto m).head = s.head := rfl
@[simp] theorem State.goto_src (m : Mode) (s : State) : (s.goto m).src = s.src := rfl
@[simp] theorem State.goto_running (m : Mode) (s : State) : (s.goto m).running = s.running := rfl
@[simp] theorem State.goto_left (m : Mode) (s : State) : (s.goto m).left = s.left := rfl
@[simp] theorem State.goto_outBuf (m : Mode) (s : State) : (s.goto m).outBuf = s.outBuf := rfl
@[simp] theorem State.goto_flush (m : Mode) (s : State) : (s.goto m).flush = s.flush := rfl
@[simp] theorem State.goto_commands (m : Mode) (s : State) : (s.goto m).commands = s.commands := rfl
@[simp] theorem State.goto_reply (m : Mode) (s : State) : (s.goto m).reply = s.reply := rfl
@[simp] theorem State.goto_allocMayFail (m : Mode) (s : State) : (s.goto m).allocMayFail = s.allocMayFail := rfl
@[simp] theorem State.goto_allocDraws (m : Mode) (s : State) : (s.goto m).allocDraws = s.allocDraws := rfl

/-! ### State.mapSrc -/

@[simp] theorem State.mapSrc_valid (f : BitStream → BitStream) (s : State) : (s.mapSrc f).valid = s.valid := rfl
@[simp] theorem State.mapSrc_wrap (f : BitStream → BitStream) (s : State) : (s.mapSrc f).wrap = s.wrap := rfl
@[simp] theorem State.mapSrc_wbits (f : BitStream → BitStream) (s : State) : (s.mapSrc f).wbits = s.wbits := rfl
@[simp] theorem State.mapSrc_mode (f : BitStream → BitStream) (s : State) : (s.mapSrc f).mode = s.mode := rfl
@[simp] theorem State.mapSrc_last (f : BitStream → BitStream) (s : State) : (s.mapSrc f).last = s.last := rfl
@[simp] theorem State.mapSrc_fmt (f : BitStream → BitStream) (s : State) : (s.mapSrc f).fmt = s.fmt := rfl
@[simp] theorem State.mapSrc_gflg (f : BitStream → BitStream) (s : State) : (s.mapSrc f).gflg = s.gflg := rfl
@[simp] theorem State.mapSrc_check (f : BitStream → BitStream) (s : State) : (s.mapSrc f).check = s.check := rfl
@[simp] theorem State.mapSrc_hcheck (f : BitStream → BitStream) (s : State) : (s.mapSrc f).hcheck = s.hcheck := rfl
@[simp] theorem State.mapSrc_havedict (f : BitStream → BitStream) (s : State) : (s.mapSrc f).havedict = s.havedict := rfl
@[simp] theorem State.mapSrc_length (f : BitStream → BitStream) (s : State) : (s.mapSrc f).length = s.length := rfl
@[simp] theorem State.mapSrc_offset (f : BitStream → BitStream) (s : State) : (s.mapSrc f).offset = s.offset := rfl
@[simp] theorem State.mapSrc_extra (f : BitStream → BitStream) (s : State) : (s.mapSrc f).extra = s.extra := rfl
@[simp] theorem State.mapSrc_nlen (f : BitStream → BitStream) (s : State) : (s.mapSrc f).nlen = s.nlen := rfl
@[simp] theorem State.mapSrc_ndist (f : BitStream → BitStream) (s : State) : (s.mapSrc f).ndist = s.ndist := rfl
@[simp] theorem State.mapSrc_ncode (f : BitStream → BitStream) (s : State) : (s.mapSrc f).ncode = s.ncode := rfl
@[simp] theorem State.mapSrc_ncnt (f : BitStream → BitStream) (s : State) : (s.mapSrc f).ncnt = s.ncnt := rfl
@[simp] theorem State.mapSrc_lens (f : BitStream → BitStream) (s : State) : (s.mapSrc f).lens = s.lens := rfl
@[simp] theorem State.mapSrc_lcode (f : BitStream → BitStream) (s : State) : (s.mapSrc f).lcode = s.lcode := rfl
@[simp] theorem State.mapSrc_dcode (f : BitStream → BitStream) (s : State) : (s.mapSrc f).dcode = s.dcode := rfl
@[simp] theorem State.mapSrc_clcode (f : BitStream → BitStream) (s : State) : (s.mapSrc f).clcode = s.clcode := rfl
@[simp] theorem State.mapSrc_win (f : BitStream → BitStream) (s : State) : (s.mapSrc f).win = s.win := rfl
@[simp] theorem State.mapSrc_total (f : BitStream → BitStream) (s : State) : (s.mapSrc f).total = s.total := rfl
@[simp] theorem State.mapSrc_totalIn (f : BitStream → BitStream) (s : State) : (s.mapSrc f).totalIn = s.totalIn := rfl
@[simp] theorem State.mapSrc_totalOut (f : BitStream → BitStream) (s : State) : (s.mapSrc f).totalOut = s.totalOut := rfl
@[simp] theorem State.mapSrc_msg (f : BitStream → BitStream) (s : State) : (s.mapSrc f).msg = s.msg := rfl
@[simp] theorem State.mapSrc_head (f : BitStream → BitStream) (s : State) : (s.mapSrc f).head = s.head := rfl
@[simp] theorem State.mapSrc_src (f : BitStream → BitStream) (s : State) : (s.mapSrc f).src = f s.src := rfl
@[simp] theorem State.mapSrc_running (f : BitStream → BitStream) (s : State) : (s.mapSrc f).running = s.running := rfl
@[simp] theorem State.mapSrc_left (f : BitStream → BitStream) (s : State) : (s.mapSrc f).left = s.left := rfl
@[simp] theorem State.mapSrc_outBuf (f : BitStream → BitStream) (s : State) : (s.mapSrc f).outBuf = s.outBuf := rfl
@[simp] theorem State.mapSrc_flush (f : BitStream → BitStream) (s : State) : (s.mapSrc f).flush = s.flush := rfl
@[simp] theorem State.mapSrc_commands (f : BitStream → BitStream) (s : State) : (s.mapSrc f).commands = s.commands := rfl
@[simp] theorem State.mapSrc_reply (f : BitStream → BitStream) (s : State) : (s.mapSrc f).reply = s.reply := rfl
@[simp] theorem State.mapSrc_allocMayFail (f : BitStream → BitStream) (s : State) : (s.mapSrc f).allocMayFail = s.allocMayFail := rfl
@[simp] theorem State.mapSrc_allocDraws (f : BitStream → BitStream) (s : State) : (s.mapSrc f).allocDraws = s.allocDraws := rfl

/-! ### State.dropBits -/

@[simp] theorem State.dropBits_valid (n : Nat) (s : State) : (s.dropBits n).valid = s.valid := rfl
@[simp] theorem State.dropBits_wrap (n : Nat) (s : State) : (s.dropBits n).wrap = s.wrap := rfl
@[simp] theorem State.dropBits_wbits (n : Nat) (s : State) : (s.dropBits n).wbits = s.wbits := rfl
@[simp] theorem State.dropBits_mode (n : Nat) (s : State) : (s.dropBits n).mode = s.mode := rfl
@[simp] theorem State.dropBits_last (n : Nat) (s : State) : (s.dropBits n).last = s.last := rfl
@[simp] theorem State.dropBits_fmt (n : Nat) (s : State) : (s.dropBits n).fmt = s.fmt := rfl
@[simp] theorem State.dropBits_gflg (n : Nat) (s : State) : (s.dropBits n).gflg = s.gflg := rfl
@[simp] theorem State.dropBits_check (n : Nat) (s : State) : (s.dropBits n).check = s.check := rfl
@[simp] theorem State.dropBits_hcheck (n : Nat) (s : State) : (s.dropBits n).hcheck = s.hcheck := rfl
@[simp] theorem State.dropBits_havedict (n : Nat) (s : State) : (s.dropBits n).havedict = s.havedict := rfl
@[simp] theorem State.dropBits_length (n : Nat) (s : State) : (s.dropBits n).length = s.length := rfl
@[simp] theorem State.dropBits_offset (n : Nat) (s : State) : (s.dropBits n).offset = s.offset := rfl
@[simp] theorem State.dropBits_extra (n : Nat) (s : State) : (s.dropBits n).extra = s.extra := rfl
@[simp] theorem State.dropBits_nlen (n : Nat) (s : State) : (s.dropBits n).nlen = s.nlen := rfl
@[simp] theorem State.dropBits_ndist (n : Nat) (s : State) : (s.dropBits n).ndist = s.ndist := rfl
@[simp] theorem State.dropBits_ncode (n : Nat) (s : State) : (s.dropBits n).ncode = s.ncode := rfl
@[simp] theorem State.dropBits_ncnt (n : Nat) (s : State) : (s.dropBits n).ncnt = s.ncnt := rfl
@[simp] theorem State.dropBits_lens (n : Nat) (s : State) : (s.dropBits n).lens = s.lens := rfl
@[simp] theorem State.dropBits_lcode (n : Nat) (s : State) : (s.dropBits n).lcode = s.lcode := rfl
@[simp] theorem State.dropBits_dcode (n : Nat) (s : State) : (s.dropBits n).dcode = s.dcode := rfl
@[simp] theorem State.dropBits_clcode (n : Nat) (s : State) : (s.dropBits n).clcode = s.clcode := rfl
@[simp] theorem State.dropBits_win (n : Nat) (s : State) : (s.dropBits n).win = s.win := rfl
@[simp] theorem State.dropBits_total (n : Nat) (s : State) : (s.dropBits n).total = s.total := rfl
@[simp] theorem State.dropBits_totalIn (n : Nat) (s : State) : (s.dropBits n).totalIn = s.totalIn := rfl
@[simp] theorem State.dropBits_totalOut (n : Nat) (s : State) : (s.dropBits n).totalOut = s.totalOut := rfl
@[simp] theorem State.dropBits_msg (n : Nat) (s : State) : (s.dropBits n).msg = s.msg := rfl
@[simp] theorem State.dropBits_head (n : Nat) (s : State) : (s.dropBits n).head = s.head := rfl
@[simp] theorem State.dropBits_src (n : Nat) (s : State) : (s.dropBits n).src = s.src.drop n := rfl
@[simp] theorem State.dropBits_running (n : Nat) (s : State) : (s.dropBits n).running = s.running := rfl
@[simp] theorem State.dropBits_left (n : Nat) (s : State) : (s.dropBits n).left = s.left := rfl
@[simp] theorem State.dropBits_outBuf (n : Nat) (s : State) : (s.dropBits n).outBuf = s.outBuf := rfl
@[simp] theorem State.dropBits_flush (n : Nat) (s : State) : (s.dropBits n).flush = s.flush := rfl
@[simp] theorem State.dropBits_commands (n : Nat) (s : State) : (s.dropBits n).commands = s.commands := rfl
@[simp] theorem State.dropBits_reply (n : Nat) (s : State) : (s.dropBits n).reply = s.reply := rfl
@[simp] theorem State.dropBits_allocMayFail (n : Nat) (s : State) : (s.dropBits n).allocMayFail = s.allocMayFail := rfl
@[simp] theorem State.dropBits_allocDraws (n : Nat) (s : State) : (s.dropBits n).allocDraws = s.allocDraws := rfl

/-! ### State.initBits -/

@[simp] theorem State.initBits_valid (s : State) : (s.initBits).valid = s.valid := rfl
@[simp] theorem State.initBits_wrap (s : State) : (s.initBits).wrap = s.wrap := rfl
@[simp] theorem State.initBits_wbits (s : State) : (s.initBits).wbits = s.wbits := rfl
@[simp] theorem State.initBits_mode (s : State) : (s.initBits).mode = s.mode := rfl
@[simp] theorem State.initBits_last (s : State) : (s.initBits).last = s.last := rfl
@[simp] theorem State.initBits_fmt (s : State) : (s.initBits).fmt = s.fmt := rfl
@[simp] theorem State.initBits_gflg (s : State) : (s.initBits).gflg = s.gflg := rfl
@[simp] theorem State.initBits_check (s : State) : (s.initBits).check = s.check := rfl
@[simp] theorem State.initBits_hcheck (s : State) : (s.initBits).hcheck = s.hcheck := rfl
@[simp] theorem State.initBits_havedict (s : State) : (s.initBits).havedict = s.havedict := rfl
@[simp] theorem State.initBits_length (s : State) : (s.initBits).length = s.length := rfl
@[simp] theorem State.initBits_offset (s : State) : (s.initBits).offset = s.offset := rfl
@[simp] theorem State.initBits_extra (s : State) : (s.initBits).extra = s.extra := rfl
@[simp] theorem State.initBits_nlen (s : State) : (s.initBits).nlen = s.nlen := rfl
@[simp] theorem State.initBits_ndist (s : State) : (s.initBits).ndist = s.ndist := rfl
@[simp] theorem State.initBits_ncode (s : State) : (s.initBits).ncode = s.ncode := rfl
@[simp] theorem State.initBits_ncnt (s : State) : (s.initBits).ncnt = s.ncnt := rfl
@[simp] theorem State.initBits_lens (s : State) : (s.initBits).lens = s.lens := rfl
@[simp] theorem State.initBits_lcode (s : State) : (s.initBits).lcode = s.lcode := rfl
@[simp] theorem State.initBits_dcode (s : State) : (s.initBits).dcode = s.dcode := rfl
@[simp] theorem State.initBits_clcode (s : State) : (s.initBits).clcode = s.clcode := rfl
@[simp] theorem State.initBits_win (s : State) : (s.initBits).win = s.win := rfl
@[simp] theorem State.initBits_total (s : State) : (s.initBits).total = s.total := rfl
@[simp] theorem State.initBits_totalIn (s : State) : (s.initBits).totalIn = s.totalIn := rfl
@[simp] theorem State.initBits_totalOut (s : State) : (s.initBits).totalOut = s.totalOut := rfl
@[simp] theorem State.initBits_msg (s : State) : (s.initBits).msg = s.msg := rfl
@[simp] theorem State.initBits_head (s : State) : (s.initBits).head = s.head := rfl
@[simp] theorem State.initBits_src (s : State) : (s.initBits).src = s.src.initBits := rfl
@[simp] theorem State.initBits_running (s : State) : (s.initBits).running = s.running := rfl
@[simp] theorem State.initBits_left (s : State) : (s.initBits).left = s.left := rfl
@[simp] theorem State.initBits_outBuf (s : State) : (s.initBits).outBuf = s.outBuf := rfl
@[simp] theorem State.initBits_flush (s : State) : (s.initBits).flush = s.flush := rfl
@[simp] theorem State.initBits_commands (s : State) : (s.initBits).commands = s.commands := rfl
@[simp] theorem State.initBits_reply (s : State) : (s.initBits).reply = s.reply := rfl
@[simp] theorem State.initBits_allocMayFail (s : State) : (s.initBits).allocMayFail = s.allocMayFail := rfl
@[simp] theorem State.initBits_allocDraws (s : State) : (s.initBits).allocDraws = s.allocDraws := rfl

/-! ### State.mapHead -/

@[simp] theorem State.mapHead_valid (f : HeaderRecord → HeaderRecord) (s : State) : (s.mapHead f).valid = s.valid := rfl
@[simp] theorem State.mapHead_wrap (f : HeaderRecord → HeaderRecord) (s : State) : (s.mapHead f).wrap = s.wrap := rfl
@[simp] theorem State.mapHead_wbits (f : HeaderRecord → HeaderRecord) (s : State) : (s.mapHead f).wbits = s.wbits := rfl
@[simp] theorem State.mapHead_mode (f : HeaderRecord → HeaderRecord) (s : State) : (s.mapHead f).mode = s.mode := rfl
@[simp] theorem State.mapHead_last (f : HeaderRecord → HeaderRecord) (s : State) : (s.mapHead f).last = s.last := rfl
@[simp] theorem State.mapHead_fmt (f : HeaderRecord → HeaderRecord) (s : State) : (s.mapHead f).fmt = s.fmt := rfl
@[simp] theorem State.mapHead_gflg (f : HeaderRecord → HeaderRecord) (s : State) : (s.mapHead f).gflg = s.gflg := rfl
@[simp] theorem State.mapHead_check (f : HeaderRecord → HeaderRecord) (s : State) : (s.mapHead f).check = s.check := rfl
@[simp] theorem State.mapHead_hcheck (f : HeaderRecord → HeaderRecord) (s : State) : (s.mapHead f).hcheck = s.hcheck := rfl
@[simp] theorem State.mapHead_havedict (f : HeaderRecord → HeaderRecord) (s : State) : (s.mapHead f).havedict = s.havedict := rfl
@[simp] theorem State.mapHead_length (f : HeaderRecord → HeaderRecord) (s : State) : (s.mapHead f).length = s.length := rfl
@[simp] theorem State.mapHead_offset (f : HeaderRecord → HeaderRecord) (s : State) : (s.mapHead f).offset = s.offset := rfl
@[simp] theorem State.mapHead_extra (f : HeaderRecord → HeaderRecord) (s : State) : (s.mapHead f).extra = s.extra := rfl
@[simp] theorem State.mapHead_nlen (f : HeaderRecord → HeaderRecord) (s : State) : (s.mapHead f).nlen = s.nlen := rfl
@[simp] theorem State.mapHead_ndist (f : HeaderRecord → HeaderRecord) (s : State) : (s.mapHead f).ndist = s.ndist := rfl
@[simp] theorem State.mapHead_ncode (f : HeaderRecord → HeaderRecord) (s : State) : (s.mapHead f).ncode = s.ncode := rfl
@[simp] theorem State.mapHead_ncnt (f : HeaderRecord → HeaderRecord) (s : State) : (s.mapHead f).ncnt = s.ncnt := rfl
@[simp] theorem State.mapHead_lens (f : HeaderRecord → HeaderRecord) (s : State) : (s.mapHead f).lens = s.lens := rfl
@[simp] theorem State.mapHead_lcode (f : HeaderRecord → HeaderRecord) (s : State) : (s.mapHead f).lcode = s.lcode := rfl
@[simp] theorem State.mapHead_dcode (f : HeaderRecord → HeaderRecord) (s : State) : (s.mapHead f).dcode = s.dcode := rfl
@[simp] theorem State.mapHead_clcode (f : HeaderRecord → HeaderRecord) (s : State) : (s.mapHead f).clcode = s.clcode := rfl
@[simp] theorem State.mapHead_win (f : HeaderRecord → HeaderRecord) (s : State) : (s.mapHead f).win = s.win := rfl
@[simp] theorem State.mapHead_total (f : HeaderRecord → HeaderRecord) (s : State) : (s.mapHead f).total = s.total := rfl
@[simp] theorem State.mapHead_totalIn (f : HeaderRecord → HeaderRecord) (s : State) : (s.mapHead f).totalIn = s.totalIn := rfl
@[simp] theorem State.mapHead_totalOut (f : HeaderRecord → HeaderRecord) (s : State) : (s.mapHead f).totalOut = s.totalOut := rfl
@[simp] theorem State.mapHead_msg (f : HeaderRecord → HeaderRecord) (s : State) : (s.mapHead f).msg = s.msg := rfl
@[simp] theorem State.mapHead_head (f : HeaderRecord → HeaderRecord) (s : State) : (s.mapHead f).head = s.head.map f := rfl
@[simp] theorem State.mapHead_src (f : HeaderRecord → HeaderRecord) (s : State) : (s.mapHead f).src = s.src := rfl
@[simp] theorem State.mapHead_running (f : HeaderRecord → HeaderRecord) (s : State) : (s.mapHead f).running = s.running := rfl
@[simp] theorem State.mapHead_left (f : HeaderRecord → HeaderRecord) (s : State) : (s.mapHead f).left = s.left := rfl
@[simp] theorem State.mapHead_outBuf (f : HeaderRecord → HeaderRecord) (s : State) : (s.mapHead f).outBuf = s.outBuf := rfl
@[simp] theorem State.mapHead_flush (f : HeaderRecord → HeaderRecord) (s : State) : (s.mapHead f).flush = s.flush := rfl
@[simp] theorem State.mapHead_commands (f : HeaderRecord → HeaderRecord) (s : State) : (s.mapHead f).commands = s.commands := rfl
@[simp] theorem State.mapHead_reply (f : HeaderRecord → HeaderRecord) (s : State) : (s.mapHead f).reply = s.reply := rfl
@[simp] theorem State.mapHead_allocMayFail (f : HeaderRecord → HeaderRecord) (s : State) : (s.mapHead f).allocMayFail = s.allocMayFail := rfl
@[simp] theorem State.mapHead_allocDraws (f : HeaderRecord → HeaderRecord) (s : State) : (s.mapHead f).allocDraws = s.allocDraws := rfl

/-! ### State.crcHeader -/

@[simp] theorem State.crcHeader_valid (bytes : List Byte) (s : State) : (s.crcHeader bytes).valid = s.valid := rfl
@[simp] theorem State.crcHeader_wrap (bytes : List Byte) (s : State) : (s.crcHeader bytes).wrap = s.wrap := rfl
@[simp] theorem State.crcHeader_wbits (bytes : List Byte) (s : State) : (s.crcHeader bytes).wbits = s.wbits := rfl
@[simp] theorem State.crcHeader_mode (bytes : List Byte) (s : State) : (s.crcHeader bytes).mode = s.mode := rfl
@[simp] theorem State.crcHeader_last (bytes : List Byte) (s : State) : (s.crcHeader bytes).last = s.last := rfl
@[simp] theorem State.crcHeader_fmt (bytes : List Byte) (s : State) : (s.crcHeader bytes).fmt = s.fmt := rfl
@[simp] theorem State.crcHeader_gflg (bytes : List Byte) (s : State) : (s.crcHeader bytes).gflg = s.gflg := rfl
@[simp] theorem State.crcHeader_check (bytes : List Byte) (s : State) : (s.crcHeader bytes).check = s.check := rfl
@[simp] theorem State.crcHeader_hcheck (bytes : List Byte) (s : State) : (s.crcHeader bytes).hcheck = crc32Update s.hcheck bytes := rfl
@[simp] theorem State.crcHeader_havedict (bytes : List Byte) (s : State) : (s.crcHeader bytes).havedict = s.havedict := rfl
@[simp] theorem State.crcHeader_length (bytes : List Byte) (s : State) : (s.crcHeader bytes).length = s.length := rfl
@[simp] theorem State.crcHeader_offset (bytes : List Byte) (s : State) : (s.crcHeader bytes).offset = s.offset := rfl
@[simp] theorem State.crcHeader_extra (bytes : List Byte) (s : State) : (s.crcHeader bytes).extra = s.extra := rfl
@[simp] theorem State.crcHeader_nlen (bytes : List Byte) (s : State) : (s.crcHeader bytes).nlen = s.nlen := rfl
@[simp] theorem State.crcHeader_ndist (bytes : List Byte) (s : State) : (s.crcHeader bytes).ndist = s.ndist := rfl
@[simp] theorem State.crcHeader_ncode (bytes : List Byte) (s : State) : (s.crcHeader bytes).ncode = s.ncode := rfl
@[simp] theorem State.crcHeader_ncnt (bytes : List Byte) (s : State) : (s.crcHeader bytes).ncnt = s.ncnt := rfl
@[simp] theorem State.crcHeader_lens (bytes : List Byte) (s : State) : (s.crcHeader bytes).lens = s.lens := rfl
@[simp] theorem State.crcHeader_lcode (bytes : List Byte) (s : State) : (s.crcHeader bytes).lcode = s.lcode := rfl
@[simp] theorem State.crcHeader_dcode (bytes : List Byte) (s : State) : (s.crcHeader bytes).dcode = s.dcode := rfl
@[simp] theorem State.crcHeader_clcode (bytes : List Byte) (s : State) : (s.crcHeader bytes).clcode = s.clcode := rfl
@[simp] theorem State.crcHeader_win (bytes : List Byte) (s : State) : (s.crcHeader bytes).win = s.win := rfl
@[simp] theorem State.crcHeader_total (bytes : List Byte) (s : State) : (s.crcHeader bytes).total = s.total := rfl
@[simp] theorem State.crcHeader_totalIn (bytes : List Byte) (s : State) : (s.crcHeader bytes).totalIn = s.totalIn := rfl
@[simp] theorem State.crcHeader_totalOut (bytes : List Byte) (s : State) : (s.crcHeader bytes).totalOut = s.totalOut := rfl
@[simp] theorem State.crcHeader_msg (bytes : List Byte) (s : State) : (s.crcHeader bytes).msg = s.msg := rfl
@[simp] theorem State.crcHeader_head (bytes : List Byte) (s : State) : (s.crcHeader bytes).head = s.head := rfl
@[simp] theorem State.crcHeader_src (bytes : List Byte) (s : State) : (s.crcHeader bytes).src = s.src := rfl
@[simp] theorem State.crcHeader_running (bytes : List Byte) (s : State) : (s.crcHeader bytes).running = s.running := rfl
@[simp] theorem State.crcHeader_left (bytes : List Byte) (s : State) : (s.crcHeader bytes).left = s.left := rfl
@[simp] theorem State.crcHeader_outBuf (bytes : List Byte) (s : State) : (s.crcHeader bytes).outBuf = s.outBuf := rfl
@[simp] theorem State.crcHeader_flush (bytes : List Byte) (s : State) : (s.crcHeader bytes).flush = s.flush := rfl
@[simp] theorem State.crcHeader_commands (bytes : List Byte) (s : State) : (s.crcHeader bytes).commands = s.commands := rfl
@[simp] theorem State.crcHeader_reply (bytes : List Byte) (s : State) : (s.crcHeader bytes).reply = s.reply := rfl
@[simp] theorem State.crcHeader_allocMayFail (bytes : List Byte) (s : State) : (s.crcHeader bytes).allocMayFail = s.allocMayFail := rfl
@[simp] theorem State.crcHeader_allocDraws (bytes : List Byte) (s : State) : (s.crcHeader bytes).allocDraws = s.allocDraws := rfl

/-! ### State.raise -/

@[simp] theorem State.raise_valid (e : Msg) (s : State) : (s.raise e).valid = s.valid := rfl
@[simp] theorem State.raise_wrap (e : Msg) (s : State) : (s.raise e).wrap = s.wrap := rfl
@[simp] theorem State.raise_wbits (e : Msg) (s : State) : (s.raise e).wbits = s.wbits := rfl
@[simp] theorem State.raise_mode (e : Msg) (s : State) : (s.raise e).mode = .bad := rfl
@[simp] theorem State.raise_last (e : Msg) (s : State) : (s.raise e).last = s.last := rfl
@[simp] theorem State.raise_fmt (e : Msg) (s : State) : (s.raise e).fmt = s.fmt := rfl
@[simp] theorem State.raise_gflg (e : Msg) (s : State) : (s.raise e).gflg = s.gflg := rfl
@[simp] theorem State.raise_check (e : Msg) (s : State) : (s.raise e).check = s.check := rfl
@[simp] theorem State.raise_hcheck (e : Msg) (s : State) : (s.raise e).hcheck = s.hcheck := rfl
@[simp] theorem State.raise_havedict (e : Msg) (s : State) : (s.raise e).havedict = s.havedict := rfl
@[simp] theorem State.raise_length (e : Msg) (s : State) : (s.raise e).length = s.length := rfl
@[simp] theorem State.raise_offset (e : Msg) (s : State) : (s.raise e).offset = s.offset := rfl
@[simp] theorem State.raise_extra (e : Msg) (s : State) : (s.raise e).extra = s.extra := rfl
@[simp] theorem State.raise_nlen (e : Msg) (s : State) : (s.raise e).nlen = s.nlen := rfl
@[simp] theorem State.raise_ndist (e : Msg) (s : State) : (s.raise e).ndist = s.ndist := rfl
@[simp] theorem State.raise_ncode (e : Msg) (s : State) : (s.raise e).ncode = s.ncode := rfl
@[simp] theorem State.raise_ncnt (e : Msg) (s : State) : (s.raise e).ncnt = s.ncnt := rfl
@[simp] theorem State.raise_lens (e : Msg) (s : State) : (s.raise e).lens = s.lens := rfl
@[simp] theorem State.raise_lcode (e : Msg) (s : State) : (s.raise e).lcode = s.lcode := rfl
@[simp] theorem State.raise_dcode (e : Msg) (s : State) : (s.raise e).dcode = s.dcode := rfl
@[simp] theorem State.raise_clcode (e : Msg) (s : State) : (s.raise e).clcode = s.clcode := rfl
@[simp] theorem State.raise_win (e : Msg) (s : State) : (s.raise e).win = s.win := rfl
@[simp] theorem State.raise_total (e : Msg) (s : State) : (s.raise e).total = s.total := rfl
@[simp] theorem State.raise_totalIn (e : Msg) (s : State) : (s.raise e).totalIn = s.totalIn := rfl
@[simp] theorem State.raise_totalOut (e : Msg) (s : State) : (s.raise e).totalOut = s.totalOut := rfl
@[simp] theorem State.raise_msg (e : Msg) (s : State) : (s.raise e).msg = e := rfl
@[simp] theorem State.raise_head (e : Msg) (s : State) : (s.raise e).head = s.head := rfl
@[simp] theorem State.raise_src (e : Msg) (s : State) : (s.raise e).src = s.src := rfl
@[simp] theorem State.raise_running (e : Msg) (s : State) : (s.raise e).running = s.running := rfl
@[simp] theorem State.raise_left (e : Msg) (s : State) : (s.raise e).left = s.left := rfl
@[simp] theorem State.raise_outBuf (e : Msg) (s : State) : (s.raise e).outBuf = s.outBuf := rfl
@[simp] theorem State.raise_flush (e : Msg) (s : State) : (s.raise e).flush = s.flush := rfl
@[simp] theorem State.raise_commands (e : Msg) (s : State) : (s.raise e).commands = s.commands := rfl
@[simp] theorem State.raise_reply (e : Msg) (s : State) : (s.raise e).reply = s.reply := rfl
@[simp] theorem State.raise_allocMayFail (e : Msg) (s : State) : (s.raise e).allocMayFail = s.allocMayFail := rfl
@[simp] theorem State.raise_allocDraws (e : Msg) (s : State) : (s.raise e).allocDraws = s.allocDraws := rfl

/-! ### State.setLens -/

@[simp] theorem State.setLens_valid (i : Nat) (v : BitVec 4) (s : State) : (s.setLens i v).valid = s.valid := rfl
@[simp] theorem State.setLens_wrap (i : Nat) (v : BitVec 4) (s : State) : (s.setLens i v).wrap = s.wrap := rfl
@[simp] theorem State.setLens_wbits (i : Nat) (v : BitVec 4) (s : State) : (s.setLens i v).wbits = s.wbits := rfl
@[simp] theorem State.setLens_mode (i : Nat) (v : BitVec 4) (s : State) : (s.setLens i v).mode = s.mode := rfl
@[simp] theorem State.setLens_last (i : Nat) (v : BitVec 4) (s : State) : (s.setLens i v).last = s.last := rfl
@[simp] theorem State.setLens_fmt (i : Nat) (v : BitVec 4) (s : State) : (s.setLens i v).fmt = s.fmt := rfl
@[simp] theorem State.setLens_gflg (i : Nat) (v : BitVec 4) (s : State) : (s.setLens i v).gflg = s.gflg := rfl
@[simp] theorem State.setLens_check (i : Nat) (v : BitVec 4) (s : State) : (s.setLens i v).check = s.check := rfl
@[simp] theorem State.setLens_hcheck (i : Nat) (v : BitVec 4) (s : State) : (s.setLens i v).hcheck = s.hcheck := rfl
@[simp] theorem State.setLens_havedict (i : Nat) (v : BitVec 4) (s : State) : (s.setLens i v).havedict = s.havedict := rfl
@[simp] theorem State.setLens_length (i : Nat) (v : BitVec 4) (s : State) : (s.setLens i v).length = s.length := rfl
@[simp] theorem State.setLens_offset (i : Nat) (v : BitVec 4) (s : State) : (s.setLens i v).offset = s.offset := rfl
@[simp] theorem State.setLens_extra (i : Nat) (v : BitVec 4) (s : State) : (s.setLens i v).extra = s.extra := rfl
@[simp] theorem State.setLens_nlen (i : Nat) (v : BitVec 4) (s : State) : (s.setLens i v).nlen = s.nlen := rfl
@[simp] theorem State.setLens_ndist (i : Nat) (v : BitVec 4) (s : State) : (s.setLens i v).ndist = s.ndist := rfl
@[simp] theorem State.setLens_ncode (i : Nat) (v : BitVec 4) (s : State) : (s.setLens i v).ncode = s.ncode := rfl
@[simp] theorem State.setLens_ncnt (i : Nat) (v : BitVec 4) (s : State) : (s.setLens i v).ncnt = s.ncnt := rfl
@[simp] theorem State.setLens_lens (i : Nat) (v : BitVec 4) (s : State) : (s.setLens i v).lens = s.lens.set i v := rfl
@[simp] theorem State.setLens_lcode (i : Nat) (v : BitVec 4) (s : State) : (s.setLens i v).lcode = s.lcode := rfl
@[simp] theorem State.setLens_dcode (i : Nat) (v : BitVec 4) (s : State) : (s.setLens i v).dcode = s.dcode := rfl
@[simp] theorem State.setLens_clcode (i : Nat) (v : BitVec 4) (s : State) : (s.setLens i v).clcode = s.clcode := rfl
@[simp] theorem State.setLens_win (i : Nat) (v : BitVec 4) (s : State) : (s.setLens i v).win = s.win := rfl
@[simp] theorem State.setLens_total (i : Nat) (v : BitVec 4) (s : State) : (s.setLens i v).total = s.total := rfl
@[simp] theorem State.setLens_totalIn (i : Nat) (v : BitVec 4) (s : State) : (s.setLens i v).totalIn = s.totalIn := rfl
@[simp] theorem State.setLens_totalOut (i : Nat) (v : BitVec 4) (s : State) : (s.setLens i v).totalOut = s.totalOut := rfl
@[simp] theorem State.setLens_msg (i : Nat) (v : BitVec 4) (s : State) : (s.setLens i v).msg = s.msg := rfl
@[simp] theorem State.setLens_head (i : Nat) (v : BitVec 4) (s : State) : (s.setLens i v).head = s.head := rfl
@[simp] theorem State.setLens_src (i : Nat) (v : BitVec 4) (s : State) : (s.setLens i v).src = s.src := rfl
@[simp] theorem State.setLens_running (i : Nat) (v : BitVec 4) (s : State) : (s.setLens i v).running = s.running := rfl
@[simp] theorem State.setLens_left (i : Nat) (v : BitVec 4) (s : State) : (s.setLens i v).left = s.left := rfl
@[simp] theorem State.setLens_outBuf (i : Nat) (v : BitVec 4) (s : State) : (s.setLens i v).outBuf = s.outBuf := rfl
@[simp] theorem State.setLens_flush (i : Nat) (v : BitVec 4) (s : State) : (s.setLens i v).flush = s.flush := rfl
@[simp] theorem State.setLens_commands (i : Nat) (v : BitVec 4) (s : State) : (s.setLens i v).commands = s.commands := rfl
@[simp] theorem State.setLens_reply (i : Nat) (v : BitVec 4) (s : State) : (s.setLens i v).reply = s.reply := rfl
@[simp] theorem State.setLens_allocMayFail (i : Nat) (v : BitVec 4) (s : State) : (s.setLens i v).allocMayFail = s.allocMayFail := rfl
@[simp] theorem State.setLens_allocDraws (i : Nat) (v : BitVec 4) (s : State) : (s.setLens i v).allocDraws = s.allocDraws := rfl

/-! ### State.consumeField -/

@[simp] theorem State.consumeField_valid (m : Mode) (s : State) : (s.consumeField m).valid = s.valid := rfl
@[simp] theorem State.consumeField_wrap (m : Mode) (s : State) : (s.consumeField m).wrap = s.wrap := rfl
@[simp] theorem State.consumeField_wbits (m : Mode) (s : State) : (s.consumeField m).wbits = s.wbits := rfl
@[simp] theorem State.consumeField_mode (m : Mode) (s : State) : (s.consumeField m).mode = m := rfl
@[simp] theorem State.consumeField_last (m : Mode) (s : State) : (s.consumeField m).last = s.last := rfl
@[simp] theorem State.consumeField_fmt (m : Mode) (s : State) : (s.consumeField m).fmt = s.fmt := rfl
@[simp] theorem State.consumeField_gflg (m : Mode) (s : State) : (s.consumeField m).gflg = s.gflg := rfl
@[simp] theorem State.consumeField_check (m : Mode) (s : State) : (s.consumeField m).check = s.check := rfl
@[simp] theorem State.consumeField_hcheck (m : Mode) (s : State) : (s.consumeField m).hcheck = s.hcheck := rfl
@[simp] theorem State.consumeField_havedict (m : Mode) (s : State) : (s.consumeField m).havedict = s.havedict := rfl
@[simp] theorem State.consumeField_length (m : Mode) (s : State) : (s.consumeField m).length = s.length := rfl
@[simp] theorem State.consumeField_offset (m : Mode) (s : State) : (s.consumeField m).offset = s.offset := rfl
@[simp] theorem State.consumeField_extra (m : Mode) (s : State) : (s.consumeField m).extra = s.extra := rfl
@[simp] theorem State.consumeField_nlen (m : Mode) (s : State) : (s.consumeField m).nlen = s.nlen := rfl
@[simp] theorem State.consumeField_ndist (m : Mode) (s : State) : (s.consumeField m).ndist = s.ndist := rfl
@[simp] theorem State.consumeField_ncode (m : Mode) (s : State) : (s.consumeField m).ncode = s.ncode := rfl
@[simp] theorem State.consumeField_ncnt (m : Mode) (s : State) : (s.consumeField m).ncnt = s.ncnt := rfl
@[simp] theorem State.consumeField_lens (m : Mode) (s : State) : (s.consumeField m).lens = s.lens := rfl
@[simp] theorem State.consumeField_lcode (m : Mode) (s : State) : (s.consumeField m).lcode = s.lcode := rfl
@[simp] theorem State.consumeField_dcode (m : Mode) (s : State) : (s.consumeField m).dcode = s.dcode := rfl
@[simp] theorem State.consumeField_clcode (m : Mode) (s : State) : (s.consumeField m).clcode = s.clcode := rfl
@[simp] theorem State.consumeField_win (m : Mode) (s : State) : (s.consumeField m).win = s.win := rfl
@[simp] theorem State.consumeField_total (m : Mode) (s : State) : (s.consumeField m).total = s.total := rfl
@[simp] theorem State.consumeField_totalIn (m : Mode) (s : State) : (s.consumeField m).totalIn = s.totalIn := rfl
@[simp] theorem State.consumeField_totalOut (m : Mode) (s : State) : (s.consumeField m).totalOut = s.totalOut := rfl
@[simp] theorem State.consumeField_msg (m : Mode) (s : State) : (s.consumeField m).msg = s.msg := rfl
@[simp] theorem State.consumeField_head (m : Mode) (s : State) : (s.consumeField m).head = s.head := rfl
@[simp] theorem State.consumeField_src (m : Mode) (s : State) : (s.consumeField m).src = s.src.initBits := rfl
@[simp] theorem State.consumeField_running (m : Mode) (s : State) : (s.consumeField m).running = s.running := rfl
@[simp] theorem State.consumeField_left (m : Mode) (s : State) : (s.consumeField m).left = s.left := rfl
@[simp] theorem State.consumeField_outBuf (m : Mode) (s : State) : (s.consumeField m).outBuf = s.outBuf := rfl
@[simp] theorem State.consumeField_flush (m : Mode) (s : State) : (s.consumeField m).flush = s.flush := rfl
@[simp] theorem State.consumeField_commands (m : Mode) (s : State) : (s.consumeField m).commands = s.commands := rfl
@[simp] theorem State.consumeField_reply (m : Mode) (s : State) : (s.consumeField m).reply = s.reply := rfl
@[simp] theorem State.consumeField_allocMayFail (m : Mode) (s : State) : (s.consumeField m).allocMayFail = s.allocMayFail := rfl
@[simp] theorem State.consumeField_allocDraws (m : Mode) (s : State) : (s.consumeField m).allocDraws = s.allocDraws := rfl

/-! ### discardWindow -/

@[simp] theorem discardWindow_valid (s : State) : (discardWindow s).valid = s.valid := rfl
@[simp] theorem discardWindow_wrap (s : State) : (discardWindow s).wrap = s.wrap := rfl
@[simp] theorem discardWindow_wbits (s : State) : (discardWindow s).wbits = s.wbits := rfl
@[simp] theorem discardWindow_mode (s : State) : (discardWindow s).mode = s.mode := rfl
@[simp] theorem discardWindow_last (s : State) : (discardWindow s).last = s.last := rfl
@[simp] theorem discardWindow_fmt (s : State) : (discardWindow s).fmt = s.fmt := rfl
@[simp] theorem discardWindow_gflg (s : State) : (discardWindow s).gflg = s.gflg := rfl
@[simp] theorem discardWindow_check (s : State) : (discardWindow s).check = s.check := rfl
@[simp] theorem discardWindow_hcheck (s : State) : (discardWindow s).hcheck = s.hcheck := rfl
@[simp] theorem discardWindow_havedict (s : State) : (discardWindow s).havedict = s.havedict := rfl
@[simp] theorem discardWindow_length (s : State) : (discardWindow s).length = s.length := rfl
@[simp] theorem discardWindow_offset (s : State) : (discardWindow s).offset = s.offset := rfl
@[simp] theorem discardWindow_extra (s : State) : (discardWindow s).extra = s.extra := rfl
@[simp] theorem discardWindow_nlen (s : State) : (discardWindow s).nlen = s.nlen := rfl
@[simp] theorem discardWindow_ndist (s : State) : (discardWindow s).ndist = s.ndist := rfl
@[simp] theorem discardWindow_ncode (s : State) : (discardWindow s).ncode = s.ncode := rfl
@[simp] theorem discardWindow_ncnt (s : State) : (discardWindow s).ncnt = s.ncnt := rfl
@[simp] theorem discardWindow_lens (s : State) : (discardWindow s).lens = s.lens := rfl
@[simp] theorem discardWindow_lcode (s : State) : (discardWindow s).lcode = s.lcode := rfl
@[simp] theorem discardWindow_dcode (s : State) : (discardWindow s).dcode = s.dcode := rfl
@[simp] theorem discardWindow_clcode (s : State) : (discardWindow s).clcode = s.clcode := rfl
@[simp] theorem discardWindow_win (s : State) : (discardWindow s).win = ⟨s.win.ram, 0, 0, 0⟩ := rfl
@[simp] theorem discardWindow_total (s : State) : (discardWindow s).total = s.total := rfl
@[simp] theorem discardWindow_totalIn (s : State) : (discardWindow s).totalIn = s.totalIn := rfl
@[simp] theorem discardWindow_totalOut (s : State) : (discardWindow s).totalOut = s.totalOut := rfl
@[simp] theorem discardWindow_msg (s : State) : (discardWindow s).msg = s.msg := rfl
@[simp] theorem discardWindow_head (s : State) : (discardWindow s).head = s.head := rfl
@[simp] theorem discardWindow_src (s : State) : (discardWindow s).src = s.src := rfl
@[simp] theorem discardWindow_running (s : State) : (discardWindow s).running = s.running := rfl
@[simp] theorem discardWindow_left (s : State) : (discardWindow s).left = s.left := rfl
@[simp] theorem discardWindow_outBuf (s : State) : (discardWindow s).outBuf = s.outBuf := rfl
@[simp] theorem discardWindow_flush (s : State) : (discardWindow s).flush = s.flush := rfl
@[simp] theorem discardWindow_commands (s : State) : (discardWindow s).commands = s.commands := rfl
@[simp] theorem discardWindow_reply (s : State) : (discardWindow s).reply = s.reply := rfl
@[simp] theorem discardWindow_allocMayFail (s : State) : (discardWindow s).allocMayFail = s.allocMayFail := rfl
@[simp] theorem discardWindow_allocDraws (s : State) : (discardWindow s).allocDraws = s.allocDraws := rfl

/-! ### resetKeep -/

@[simp] theorem resetKeep_valid (s : State) : (resetKeep s).valid = s.valid := rfl
@[simp] theorem resetKeep_wrap (s : State) : (resetKeep s).wrap = s.wrap := rfl
@[simp] theorem resetKeep_wbits (s : State) : (resetKeep s).wbits = s.wbits := rfl
@[simp] theorem resetKeep_mode (s : State) : (resetKeep s).mode = .head := rfl
@[simp] theorem resetKeep_last (s : State) : (resetKeep s).last = false := rfl
@[simp] theorem resetKeep_fmt (s : State) : (resetKeep s).fmt = .unknown := rfl
@[simp] theorem resetKeep_gflg (s : State) : (resetKeep s).gflg = 0 := rfl
@[simp] theorem resetKeep_check (s : State) : (resetKeep s).check = checkSeed s.wrap := rfl
@[simp] theorem resetKeep_hcheck (s : State) : (resetKeep s).hcheck = 0 := rfl
@[simp] theorem resetKeep_havedict (s : State) : (resetKeep s).havedict = false := rfl
@[simp] theorem resetKeep_length (s : State) : (resetKeep s).length = s.length := rfl
@[simp] theorem resetKeep_offset (s : State) : (resetKeep s).offset = s.offset := rfl
@[simp] theorem resetKeep_extra (s : State) : (resetKeep s).extra = s.extra := rfl
@[simp] theorem resetKeep_nlen (s : State) : (resetKeep s).nlen = s.nlen := rfl
@[simp] theorem resetKeep_ndist (s : State) : (resetKeep s).ndist = s.ndist := rfl
@[simp] theorem resetKeep_ncode (s : State) : (resetKeep s).ncode = s.ncode := rfl
@[simp] theorem resetKeep_ncnt (s : State) : (resetKeep s).ncnt = s.ncnt := rfl
@[simp] theorem resetKeep_lens (s : State) : (resetKeep s).lens = s.lens := rfl
@[simp] theorem resetKeep_lcode (s : State) : (resetKeep s).lcode = s.lcode := rfl
@[simp] theorem resetKeep_dcode (s : State) : (resetKeep s).dcode = s.dcode := rfl
@[simp] theorem resetKeep_clcode (s : State) : (resetKeep s).clcode = s.clcode := rfl
@[simp] theorem resetKeep_win (s : State) : (resetKeep s).win = s.win := rfl
@[simp] theorem resetKeep_total (s : State) : (resetKeep s).total = 0 := rfl
@[simp] theorem resetKeep_totalIn (s : State) : (resetKeep s).totalIn = 0 := rfl
@[simp] theorem resetKeep_totalOut (s : State) : (resetKeep s).totalOut = 0 := rfl
@[simp] theorem resetKeep_msg (s : State) : (resetKeep s).msg = .e0 := rfl
@[simp] theorem resetKeep_head (s : State) : (resetKeep s).head = none := rfl
@[simp] theorem resetKeep_src (s : State) : (resetKeep s).src = ⟨0, 0, s.src.input, s.src.taken⟩ := rfl
@[simp] theorem resetKeep_running (s : State) : (resetKeep s).running = s.running := rfl
@[simp] theorem resetKeep_left (s : State) : (resetKeep s).left = s.left := rfl
@[simp] theorem resetKeep_outBuf (s : State) : (resetKeep s).outBuf = s.outBuf := rfl
@[simp] theorem resetKeep_flush (s : State) : (resetKeep s).flush = s.flush := rfl
@[simp] theorem resetKeep_commands (s : State) : (resetKeep s).commands = s.commands := rfl
@[simp] theorem resetKeep_reply (s : State) : (resetKeep s).reply = s.reply := rfl
@[simp] theorem resetKeep_allocMayFail (s : State) : (resetKeep s).allocMayFail = s.allocMayFail := rfl
@[simp] theorem resetKeep_allocDraws (s : State) : (resetKeep s).allocDraws = s.allocDraws := rfl

/-! ### memWrite -/

@[simp] theorem memWrite_valid (v : Byte) (s : State) : (memWrite v s).valid = s.valid := rfl
@[simp] theorem memWrite_wrap (v : Byte) (s : State) : (memWrite v s).wrap = s.wrap := rfl
@[simp] theorem memWrite_wbits (v : Byte) (s : State) : (memWrite v s).wbits = s.wbits := rfl
@[simp] theorem memWrite_mode (v : Byte) (s : State) : (memWrite v s).mode = s.mode := rfl
@[simp] theorem memWrite_last (v : Byte) (s : State) : (memWrite v s).last = s.last := rfl
@[simp] theorem memWrite_fmt (v : Byte) (s : State) : (memWrite v s).fmt = s.fmt := rfl
@[simp] theorem memWrite_gflg (v : Byte) (s : State) : (memWrite v s).gflg = s.gflg := rfl
@[simp] theorem memWrite_check (v : Byte) (s : State) : (memWrite v s).check = if s.wrap = .none then s.check else dataUpdate s.fmt s.check [v] := rfl
@[simp] theorem memWrite_hcheck (v : Byte) (s : State) : (memWrite v s).hcheck = s.hcheck := rfl
@[simp] theorem memWrite_havedict (v : Byte) (s : State) : (memWrite v s).havedict = s.havedict := rfl
@[simp] theorem memWrite_length (v : Byte) (s : State) : (memWrite v s).length = s.length := rfl
@[simp] theorem memWrite_offset (v : Byte) (s : State) : (memWrite v s).offset = s.offset := rfl
@[simp] theorem memWrite_extra (v : Byte) (s : State) : (memWrite v s).extra = s.extra := rfl
@[simp] theorem memWrite_nlen (v : Byte) (s : State) : (memWrite v s).nlen = s.nlen := rfl
@[simp] theorem memWrite_ndist (v : Byte) (s : State) : (memWrite v s).ndist = s.ndist := rfl
@[simp] theorem memWrite_ncode (v : Byte) (s : State) : (memWrite v s).ncode = s.ncode := rfl
@[simp] theorem memWrite_ncnt (v : Byte) (s : State) : (memWrite v s).ncnt = s.ncnt := rfl
@[simp] theorem memWrite_lens (v : Byte) (s : State) : (memWrite v s).lens = s.lens := rfl
@[simp] theorem memWrite_lcode (v : Byte) (s : State) : (memWrite v s).lcode = s.lcode := rfl
@[simp] theorem memWrite_dcode (v : Byte) (s : State) : (memWrite v s).dcode = s.dcode := rfl
@[simp] theorem memWrite_clcode (v : Byte) (s : State) : (memWrite v s).clcode = s.clcode := rfl
@[simp] theorem memWrite_win (v : Byte) (s : State) : (memWrite v s).win = s.win := rfl
@[simp] theorem memWrite_total (v : Byte) (s : State) : (memWrite v s).total = s.total := rfl
@[simp] theorem memWrite_totalIn (v : Byte) (s : State) : (memWrite v s).totalIn = s.totalIn := rfl
@[simp] theorem memWrite_totalOut (v : Byte) (s : State) : (memWrite v s).totalOut = s.totalOut := rfl
@[simp] theorem memWrite_msg (v : Byte) (s : State) : (memWrite v s).msg = s.msg := rfl
@[simp] theorem memWrite_head (v : Byte) (s : State) : (memWrite v s).head = s.head := rfl
@[simp] theorem memWrite_src (v : Byte) (s : State) : (memWrite v s).src = s.src := rfl
@[simp] theorem memWrite_running (v : Byte) (s : State) : (memWrite v s).running = s.running := rfl
@[simp] theorem memWrite_left (v : Byte) (s : State) : (memWrite v s).left = s.left - 1 := rfl
@[simp] theorem memWrite_outBuf (v : Byte) (s : State) : (memWrite v s).outBuf = s.outBuf ++ [v] := rfl
@[simp] theorem memWrite_flush (v : Byte) (s : State) : (memWrite v s).flush = s.flush := rfl
@[simp] theorem memWrite_commands (v : Byte) (s : State) : (memWrite v s).commands = s.commands := rfl
@[simp] theorem memWrite_reply (v : Byte) (s : State) : (memWrite v s).reply = s.reply := rfl
@[simp] theorem memWrite_allocMayFail (v : Byte) (s : State) : (memWrite v s).allocMayFail = s.allocMayFail := rfl
@[simp] theorem memWrite_allocDraws (v : Byte) (s : State) : (memWrite v s).allocDraws = s.allocDraws := rfl

/-! ### endCall -/

@[simp] theorem endCall_valid (st : Status) (s : State) : (endCall st s).valid = s.valid := rfl
@[simp] theorem endCall_wrap (st : Status) (s : State) : (endCall st s).wrap = s.wrap := rfl
@[simp] theorem endCall_wbits (st : Status) (s : State) : (endCall st s).wbits = s.wbits := rfl
@[simp] theorem endCall_mode (st : Status) (s : State) : (endCall st s).mode = s.mode := rfl
@[simp] theorem endCall_last (st : Status) (s : State) : (endCall st s).last = s.last := rfl
@[simp] theorem endCall_fmt (st : Status) (s : State) : (endCall st s).fmt = s.fmt := rfl
@[simp] theorem endCall_gflg (st : Status) (s : State) : (endCall st s).gflg = s.gflg := rfl
@[simp] theorem endCall_check (st : Status) (s : State) : (endCall st s).check = s.check := rfl
@[simp] theorem endCall_hcheck (st : Status) (s : State) : (endCall st s).hcheck = s.hcheck := rfl
@[simp] theorem endCall_havedict (st : Status) (s : State) : (endCall st s).havedict = s.havedict := rfl
@[simp] theorem endCall_length (st : Status) (s : State) : (endCall st s).length = s.length := rfl
@[simp] theorem endCall_offset (st : Status) (s : State) : (endCall st s).offset = s.offset := rfl
@[simp] theorem endCall_extra (st : Status) (s : State) : (endCall st s).extra = s.extra := rfl
@[simp] theorem endCall_nlen (st : Status) (s : State) : (endCall st s).nlen = s.nlen := rfl
@[simp] theorem endCall_ndist (st : Status) (s : State) : (endCall st s).ndist = s.ndist := rfl
@[simp] theorem endCall_ncode (st : Status) (s : State) : (endCall st s).ncode = s.ncode := rfl
@[simp] theorem endCall_ncnt (st : Status) (s : State) : (endCall st s).ncnt = s.ncnt := rfl
@[simp] theorem endCall_lens (st : Status) (s : State) : (endCall st s).lens = s.lens := rfl
@[simp] theorem endCall_lcode (st : Status) (s : State) : (endCall st s).lcode = s.lcode := rfl
@[simp] theorem endCall_dcode (st : Status) (s : State) : (endCall st s).dcode = s.dcode := rfl
@[simp] theorem endCall_clcode (st : Status) (s : State) : (endCall st s).clcode = s.clcode := rfl
@[simp] theorem endCall_win (st : Status) (s : State) : (endCall st s).win = s.win := rfl
@[simp] theorem endCall_total (st : Status) (s : State) : (endCall st s).total = s.total := rfl
@[simp] theorem endCall_totalIn (st : Status) (s : State) : (endCall st s).totalIn = s.totalIn := rfl
@[simp] theorem endCall_totalOut (st : Status) (s : State) : (endCall st s).totalOut = s.totalOut := rfl
@[simp] theorem endCall_msg (st : Status) (s : State) : (endCall st s).msg = s.msg := rfl
@[simp] theorem endCall_head (st : Status) (s : State) : (endCall st s).head = s.head := rfl
@[simp] theorem endCall_src (st : Status) (s : State) : (endCall st s).src = ⟨s.src.hold, s.src.bits, [], 0⟩ := rfl
@[simp] theorem endCall_running (st : Status) (s : State) : (endCall st s).running = false := rfl
@[simp] theorem endCall_left (st : Status) (s : State) : (endCall st s).left = 0 := rfl
@[simp] theorem endCall_outBuf (st : Status) (s : State) : (endCall st s).outBuf = [] := rfl
@[simp] theorem endCall_flush (st : Status) (s : State) : (endCall st s).flush = s.flush := rfl
@[simp] theorem endCall_commands (st : Status) (s : State) : (endCall st s).commands = s.commands := rfl
@[simp] theorem endCall_reply (st : Status) (s : State) : (endCall st s).reply = some ⟨st, s.src.taken, s.outBuf⟩ := rfl
@[simp] theorem endCall_allocMayFail (st : Status) (s : State) : (endCall st s).allocMayFail = s.allocMayFail := rfl
@[simp] theorem endCall_allocDraws (st : Status) (s : State) : (endCall st s).allocDraws = s.allocDraws := rfl

/-! ### addTotals -/

@[simp] theorem addTotals_valid (s : State) : (addTotals s).valid = s.valid := rfl
@[simp] theorem addTotals_wrap (s : State) : (addTotals s).wrap = s.wrap := rfl
@[simp] theorem addTotals_wbits (s : State) : (addTotals s).wbits = s.wbits := rfl
@[simp] theorem addTotals_mode (s : State) : (addTotals s).mode = s.mode := rfl
@[simp] theorem addTotals_last (s : State) : (addTotals s).last = s.last := rfl
@[simp] theorem addTotals_fmt (s : State) : (addTotals s).fmt = s.fmt := rfl
@[simp] theorem addTotals_gflg (s : State) : (addTotals s).gflg = s.gflg := rfl
@[simp] theorem addTotals_check (s : State) : (addTotals s).check = s.check := rfl
@[simp] theorem addTotals_hcheck (s : State) : (addTotals s).hcheck = s.hcheck := rfl
@[simp] theorem addTotals_havedict (s : State) : (addTotals s).havedict = s.havedict := rfl
@[simp] theorem addTotals_length (s : State) : (addTotals s).length = s.length := rfl
@[simp] theorem addTotals_offset (s : State) : (addTotals s).offset = s.offset := rfl
@[simp] theorem addTotals_extra (s : State) : (addTotals s).extra = s.extra := rfl
@[simp] theorem addTotals_nlen (s : State) : (addTotals s).nlen = s.nlen := rfl
@[simp] theorem addTotals_ndist (s : State) : (addTotals s).ndist = s.ndist := rfl
@[simp] theorem addTotals_ncode (s : State) : (addTotals s).ncode = s.ncode := rfl
@[simp] theorem addTotals_ncnt (s : State) : (addTotals s).ncnt = s.ncnt := rfl
@[simp] theorem addTotals_lens (s : State) : (addTotals s).lens = s.lens := rfl
@[simp] theorem addTotals_lcode (s : State) : (addTotals s).lcode = s.lcode := rfl
@[simp] theorem addTotals_dcode (s : State) : (addTotals s).dcode = s.dcode := rfl
@[simp] theorem addTotals_clcode (s : State) : (addTotals s).clcode = s.clcode := rfl
@[simp] theorem addTotals_win (s : State) : (addTotals s).win = s.win := rfl
@[simp] theorem addTotals_total (s : State) : (addTotals s).total = s.total + BitVec.ofNat 32 s.outBuf.length := rfl
@[simp] theorem addTotals_totalIn (s : State) : (addTotals s).totalIn = s.totalIn + BitVec.ofNat 64 s.src.taken := rfl
@[simp] theorem addTotals_totalOut (s : State) : (addTotals s).totalOut = s.totalOut + BitVec.ofNat 64 s.outBuf.length := rfl
@[simp] theorem addTotals_msg (s : State) : (addTotals s).msg = s.msg := rfl
@[simp] theorem addTotals_head (s : State) : (addTotals s).head = s.head := rfl
@[simp] theorem addTotals_src (s : State) : (addTotals s).src = s.src := rfl
@[simp] theorem addTotals_running (s : State) : (addTotals s).running = s.running := rfl
@[simp] theorem addTotals_left (s : State) : (addTotals s).left = s.left := rfl
@[simp] theorem addTotals_outBuf (s : State) : (addTotals s).outBuf = s.outBuf := rfl
@[simp] theorem addTotals_flush (s : State) : (addTotals s).flush = s.flush := rfl
@[simp] theorem addTotals_commands (s : State) : (addTotals s).commands = s.commands := rfl
@[simp] theorem addTotals_reply (s : State) : (addTotals s).reply = s.reply := rfl
@[simp] theorem addTotals_allocMayFail (s : State) : (addTotals s).allocMayFail = s.allocMayFail := rfl
@[simp] theorem addTotals_allocDraws (s : State) : (addTotals s).allocDraws = s.allocDraws := rfl

/-! ### answer -/

@[simp] theorem answer_valid (st : Status) (s : State) : (answer st s).valid = s.valid := rfl
@[simp] theorem answer_wrap (st : Status) (s : State) : (answer st s).wrap = s.wrap := rfl
@[simp] theorem answer_wbits (st : Status) (s : State) : (answer st s).wbits = s.wbits := rfl
@[simp] theorem answer_mode (st : Status) (s : State) : (answer st s).mode = s.mode := rfl
@[simp] theorem answer_last (st : Status) (s : State) : (answer st s).last = s.last := rfl
@[simp] theorem answer_fmt (st : Status) (s : State) : (answer st s).fmt = s.fmt := rfl
@[simp] theorem answer_gflg (st : Status) (s : State) : (answer st s).gflg = s.gflg := rfl
@[simp] theorem answer_check (st : Status) (s : State) : (answer st s).check = s.check := rfl
@[simp] theorem answer_hcheck (st : Status) (s : State) : (answer st s).hcheck = s.hcheck := rfl
@[simp] theorem answer_havedict (st : Status) (s : State) : (answer st s).havedict = s.havedict := rfl
@[simp] theorem answer_length (st : Status) (s : State) : (answer st s).length = s.length := rfl
@[simp] theorem answer_offset (st : Status) (s : State) : (answer st s).offset = s.offset := rfl
@[simp] theorem answer_extra (st : Status) (s : State) : (answer st s).extra = s.extra := rfl
@[simp] theorem answer_nlen (st : Status) (s : State) : (answer st s).nlen = s.nlen := rfl
@[simp] theorem answer_ndist (st : Status) (s : State) : (answer st s).ndist = s.ndist := rfl
@[simp] theorem answer_ncode (st : Status) (s : State) : (answer st s).ncode = s.ncode := rfl
@[simp] theorem answer_ncnt (st : Status) (s : State) : (answer st s).ncnt = s.ncnt := rfl
@[simp] theorem answer_lens (st : Status) (s : State) : (answer st s).lens = s.lens := rfl
@[simp] theorem answer_lcode (st : Status) (s : State) : (answer st s).lcode = s.lcode := rfl
@[simp] theorem answer_dcode (st : Status) (s : State) : (answer st s).dcode = s.dcode := rfl
@[simp] theorem answer_clcode (st : Status) (s : State) : (answer st s).clcode = s.clcode := rfl
@[simp] theorem answer_win (st : Status) (s : State) : (answer st s).win = s.win := rfl
@[simp] theorem answer_total (st : Status) (s : State) : (answer st s).total = s.total := rfl
@[simp] theorem answer_totalIn (st : Status) (s : State) : (answer st s).totalIn = s.totalIn := rfl
@[simp] theorem answer_totalOut (st : Status) (s : State) : (answer st s).totalOut = s.totalOut := rfl
@[simp] theorem answer_msg (st : Status) (s : State) : (answer st s).msg = s.msg := rfl
@[simp] theorem answer_head (st : Status) (s : State) : (answer st s).head = s.head := rfl
@[simp] theorem answer_src (st : Status) (s : State) : (answer st s).src = s.src := rfl
@[simp] theorem answer_running (st : Status) (s : State) : (answer st s).running = s.running := rfl
@[simp] theorem answer_left (st : Status) (s : State) : (answer st s).left = s.left := rfl
@[simp] theorem answer_outBuf (st : Status) (s : State) : (answer st s).outBuf = s.outBuf := rfl
@[simp] theorem answer_flush (st : Status) (s : State) : (answer st s).flush = s.flush := rfl
@[simp] theorem answer_commands (st : Status) (s : State) : (answer st s).commands = s.commands := rfl
@[simp] theorem answer_reply (st : Status) (s : State) : (answer st s).reply = some ⟨st, 0, []⟩ := rfl
@[simp] theorem answer_allocMayFail (st : Status) (s : State) : (answer st s).allocMayFail = s.allocMayFail := rfl
@[simp] theorem answer_allocDraws (st : Status) (s : State) : (answer st s).allocDraws = s.allocDraws := rfl

/-! ### startLength -/

@[simp] theorem startLength_valid (k : Fin 29) (s : State) : (startLength k s).valid = s.valid := rfl
@[simp] theorem startLength_wrap (k : Fin 29) (s : State) : (startLength k s).wrap = s.wrap := rfl
@[simp] theorem startLength_wbits (k : Fin 29) (s : State) : (startLength k s).wbits = s.wbits := rfl
@[simp] theorem startLength_mode (k : Fin 29) (s : State) : (startLength k s).mode = .lenext := rfl
@[simp] theorem startLength_last (k : Fin 29) (s : State) : (startLength k s).last = s.last := rfl
@[simp] theorem startLength_fmt (k : Fin 29) (s : State) : (startLength k s).fmt = s.fmt := rfl
@[simp] theorem startLength_gflg (k : Fin 29) (s : State) : (startLength k s).gflg = s.gflg := rfl
@[simp] theorem startLength_check (k : Fin 29) (s : State) : (startLength k s).check = s.check := rfl
@[simp] theorem startLength_hcheck (k : Fin 29) (s : State) : (startLength k s).hcheck = s.hcheck := rfl
@[simp] theorem startLength_havedict (k : Fin 29) (s : State) : (startLength k s).havedict = s.havedict := rfl
@[simp] theorem startLength_length (k : Fin 29) (s : State) : (startLength k s).length = lengthBase k := rfl
@[simp] theorem startLength_offset (k : Fin 29) (s : State) : (startLength k s).offset = s.offset := rfl
@[simp] theorem startLength_extra (k : Fin 29) (s : State) : (startLength k s).extra = lengthExtra k := rfl
@[simp] theorem startLength_nlen (k : Fin 29) (s : State) : (startLength k s).nlen = s.nlen := rfl
@[simp] theorem startLength_ndist (k : Fin 29) (s : State) : (startLength k s).ndist = s.ndist := rfl
@[simp] theorem startLength_ncode (k : Fin 29) (s : State) : (startLength k s).ncode = s.ncode := rfl
@[simp] theorem startLength_ncnt (k : Fin 29) (s : State) : (startLength k s).ncnt = s.ncnt := rfl
@[simp] theorem startLength_lens (k : Fin 29) (s : State) : (startLength k s).lens = s.lens := rfl
@[simp] theorem startLength_lcode (k : Fin 29) (s : State) : (startLength k s).lcode = s.lcode := rfl
@[simp] theorem startLength_dcode (k : Fin 29) (s : State) : (startLength k s).dcode = s.dcode := rfl
@[simp] theorem startLength_clcode (k : Fin 29) (s : State) : (startLength k s).clcode = s.clcode := rfl
@[simp] theorem startLength_win (k : Fin 29) (s : State) : (startLength k s).win = s.win := rfl
@[simp] theorem startLength_total (k : Fin 29) (s : State) : (startLength k s).total = s.total := rfl
@[simp] theorem startLength_totalIn (k : Fin 29) (s : State) : (startLength k s).totalIn = s.totalIn := rfl
@[simp] theorem startLength_totalOut (k : Fin 29) (s : State) : (startLength k s).totalOut = s.totalOut := rfl
@[simp] theorem startLength_msg (k : Fin 29) (s : State) : (startLength k s).msg = s.msg := rfl
@[simp] theorem startLength_head (k : Fin 29) (s : State) : (startLength k s).head = s.head := rfl
@[simp] theorem startLength_src (k : Fin 29) (s : State) : (startLength k s).src = s.src := rfl
@[simp] theorem startLength_running (k : Fin 29) (s : State) : (startLength k s).running = s.running := rfl
@[simp] theorem startLength_left (k : Fin 29) (s : State) : (startLength k s).left = s.left := rfl
@[simp] theorem startLength_outBuf (k : Fin 29) (s : State) : (startLength k s).outBuf = s.outBuf := rfl
@[simp] theorem startLength_flush (k : Fin 29) (s : State) : (startLength k s).flush = s.flush := rfl
@[simp] theorem startLength_commands (k : Fin 29) (s : State) : (startLength k s).commands = s.commands := rfl
@[simp] theorem startLength_reply (k : Fin 29) (s : State) : (startLength k s).reply = s.reply := rfl
@[simp] theorem startLength_allocMayFail (k : Fin 29) (s : State) : (startLength k s).allocMayFail = s.allocMayFail := rfl
@[simp] theorem startLength_allocDraws (k : Fin 29) (s : State) : (startLength k s).allocDraws = s.allocDraws := rfl

/-! ### startDistance -/

@[simp] theorem startDistance_valid (k : Fin 30) (s : State) : (startDistance k s).valid = s.valid := rfl
@[simp] theorem startDistance_wrap (k : Fin 30) (s : State) : (startDistance k s).wrap = s.wrap := rfl
@[simp] theorem startDistance_wbits (k : Fin 30) (s : State) : (startDistance k s).wbits = s.wbits := rfl
@[simp] theorem startDistance_mode (k : Fin 30) (s : State) : (startDistance k s).mode = .distext := rfl
@[simp] theorem startDistance_last (k : Fin 30) (s : State) : (startDistance k s).last = s.last := rfl
@[simp] theorem startDistance_fmt (k : Fin 30) (s : State) : (startDistance k s).fmt = s.fmt := rfl
@[simp] theorem startDistance_gflg (k : Fin 30) (s : State) : (startDistance k s).gflg = s.gflg := rfl
@[simp] theorem startDistance_check (k : Fin 30) (s : State) : (startDistance k s).check = s.check := rfl
@[simp] theorem startDistance_hcheck (k : Fin 30) (s : State) : (startDistance k s).hcheck = s.hcheck := rfl
@[simp] theorem startDistance_havedict (k : Fin 30) (s : State) : (startDistance k s).havedict = s.havedict := rfl
@[simp] theorem startDistance_length (k : Fin 30) (s : State) : (startDistance k s).length = s.length := rfl
@[simp] theorem startDistance_offset (k : Fin 30) (s : State) : (startDistance k s).offset = distanceBase k := rfl
@[simp] theorem startDistance_extra (k : Fin 30) (s : State) : (startDistance k s).extra = distanceExtra k := rfl
@[simp] theorem startDistance_nlen (k : Fin 30) (s : State) : (startDistance k s).nlen = s.nlen := rfl
@[simp] theorem startDistance_ndist (k : Fin 30) (s : State) : (startDistance k s).ndist = s.ndist := rfl
@[simp] theorem startDistance_ncode (k : Fin 30) (s : State) : (startDistance k s).ncode = s.ncode := rfl
@[simp] theorem startDistance_ncnt (k : Fin 30) (s : State) : (startDistance k s).ncnt = s.ncnt := rfl
@[simp] theorem startDistance_lens (k : Fin 30) (s : State) : (startDistance k s).lens = s.lens := rfl
@[simp] theorem startDistance_lcode (k : Fin 30) (s : State) : (startDistance k s).lcode = s.lcode := rfl
@[simp] theorem startDistance_dcode (k : Fin 30) (s : State) : (startDistance k s).dcode = s.dcode := rfl
@[simp] theorem startDistance_clcode (k : Fin 30) (s : State) : (startDistance k s).clcode = s.clcode := rfl
@[simp] theorem startDistance_win (k : Fin 30) (s : State) : (startDistance k s).win = s.win := rfl
@[simp] theorem startDistance_total (k : Fin 30) (s : State) : (startDistance k s).total = s.total := rfl
@[simp] theorem startDistance_totalIn (k : Fin 30) (s : State) : (startDistance k s).totalIn = s.totalIn := rfl
@[simp] theorem startDistance_totalOut (k : Fin 30) (s : State) : (startDistance k s).totalOut = s.totalOut := rfl
@[simp] theorem startDistance_msg (k : Fin 30) (s : State) : (startDistance k s).msg = s.msg := rfl
@[simp] theorem startDistance_head (k : Fin 30) (s : State) : (startDistance k s).head = s.head := rfl
@[simp] theorem startDistance_src (k : Fin 30) (s : State) : (startDistance k s).src = s.src := rfl
@[simp] theorem startDistance_running (k : Fin 30) (s : State) : (startDistance k s).running = s.running := rfl
@[simp] theorem startDistance_left (k : Fin 30) (s : State) : (startDistance k s).left = s.left := rfl
@[simp] theorem startDistance_outBuf (k : Fin 30) (s : State) : (startDistance k s).outBuf = s.outBuf := rfl
@[simp] theorem startDistance_flush (k : Fin 30) (s : State) : (startDistance k s).flush = s.flush := rfl
@[simp] theorem startDistance_commands (k : Fin 30) (s : State) : (startDistance k s).commands = s.commands := rfl
@[simp] theorem startDistance_reply (k : Fin 30) (s : State) : (startDistance k s).reply = s.reply := rfl
@[simp] theorem startDistance_allocMayFail (k : Fin 30) (s : State) : (startDistance k s).allocMayFail = s.allocMayFail := rfl
@[simp] theorem startDistance_allocDraws (k : Fin 30) (s : State) : (startDistance k s).allocDraws = s.allocDraws := rfl

/-! ### finishLength -/

@[simp] theorem finishLength_valid (x : Nat) (s : State) : (finishLength x s).valid = s.valid := rfl
@[simp] theorem finishLength_wrap (x : Nat) (s : State) : (finishLength x s).wrap = s.wrap := rfl
@[simp] theorem finishLength_wbits (x : Nat) (s : State) : (finishLength x s).wbits = s.wbits := rfl
@[simp] theorem finishLength_mode (x : Nat) (s : State) : (finishLength x s).mode = .dist := rfl
@[simp] theorem finishLength_last (x : Nat) (s : State) : (finishLength x s).last = s.last := rfl
@[simp] theorem finishLength_fmt (x : Nat) (s : State) : (finishLength x s).fmt = s.fmt := rfl
@[simp] theorem finishLength_gflg (x : Nat) (s : State) : (finishLength x s).gflg = s.gflg := rfl
@[simp] theorem finishLength_check (x : Nat) (s : State) : (finishLength x s).check = s.check := rfl
@[simp] theorem finishLength_hcheck (x : Nat) (s : State) : (finishLength x s).hcheck = s.hcheck := rfl
@[simp] theorem finishLength_havedict (x : Nat) (s : State) : (finishLength x s).havedict = s.havedict := rfl
@[simp] theorem finishLength_length (x : Nat) (s : State) : (finishLength x s).length = s.length + x := rfl
@[simp] theorem finishLength_offset (x : Nat) (s : State) : (finishLength x s).offset = s.offset := rfl
@[simp] theorem finishLength_extra (x : Nat) (s : State) : (finishLength x s).extra = s.extra := rfl
@[simp] theorem finishLength_nlen (x : Nat) (s : State) : (finishLength x s).nlen = s.nlen := rfl
@[simp] theorem finishLength_ndist (x : Nat) (s : State) : (finishLength x s).ndist = s.ndist := rfl
@[simp] theorem finishLength_ncode (x : Nat) (s : State) : (finishLength x s).ncode = s.ncode := rfl
@[simp] theorem finishLength_ncnt (x : Nat) (s : State) : (finishLength x s).ncnt = s.ncnt := rfl
@[simp] theorem finishLength_lens (x : Nat) (s : State) : (finishLength x s).lens = s.lens := rfl
@[simp] theorem finishLength_lcode (x : Nat) (s : State) : (finishLength x s).lcode = s.lcode := rfl
@[simp] theorem finishLength_dcode (x : Nat) (s : State) : (finishLength x s).dcode = s.dcode := rfl
@[simp] theorem finishLength_clcode (x : Nat) (s : State) : (finishLength x s).clcode = s.clcode := rfl
@[simp] theorem finishLength_win (x : Nat) (s : State) : (finishLength x s).win = s.win := rfl
@[simp] theorem finishLength_total (x : Nat) (s : State) : (finishLength x s).total = s.total := rfl
@[simp] theorem finishLength_totalIn (x : Nat) (s : State) : (finishLength x s).totalIn = s.totalIn := rfl
@[simp] theorem finishLength_totalOut (x : Nat) (s : State) : (finishLength x s).totalOut = s.totalOut := rfl
@[simp] theorem finishLength_msg (x : Nat) (s : State) : (finishLength x s).msg = s.msg := rfl
@[simp] theorem finishLength_head (x : Nat) (s : State) : (finishLength x s).head = s.head := rfl
@[simp] theorem finishLength_src (x : Nat) (s : State) : (finishLength x s).src = s.src.drop s.extra := rfl
@[simp] theorem finishLength_running (x : Nat) (s : State) : (finishLength x s).running = s.running := rfl
@[simp] theorem finishLength_left (x : Nat) (s : State) : (finishLength x s).left = s.left := rfl
@[simp] theorem finishLength_outBuf (x : Nat) (s : State) : (finishLength x s).outBuf = s.outBuf := rfl
@[simp] theorem finishLength_flush (x : Nat) (s : State) : (finishLength x s).flush = s.flush := rfl
@[simp] theorem finishLength_commands (x : Nat) (s : State) : (finishLength x s).commands = s.commands := rfl
@[simp] theorem finishLength_reply (x : Nat) (s : State) : (finishLength x s).reply = s.reply := rfl
@[simp] theorem finishLength_allocMayFail (x : Nat) (s : State) : (finishLength x s).allocMayFail = s.allocMayFail := rfl
@[simp] theorem finishLength_allocDraws (x : Nat) (s : State) : (finishLength x s).allocDraws = s.allocDraws := rfl

/-! ### blockHeader -/

@[simp] theorem blockHeader_valid (final : Bool) (s : State) : (blockHeader final s).valid = s.valid := rfl
@[simp] theorem blockHeader_wrap (final : Bool) (s : State) : (blockHeader final s).wrap = s.wrap := rfl
@[simp] theorem blockHeader_wbits (final : Bool) (s : State) : (blockHeader final s).wbits = s.wbits := rfl
@[simp] theorem blockHeader_mode (final : Bool) (s : State) : (blockHeader final s).mode = s.mode := rfl
@[simp] theorem blockHeader_last (final : Bool) (s : State) : (blockHeader final s).last = final := rfl
@[simp] theorem blockHeader_fmt (final : Bool) (s : State) : (blockHeader final s).fmt = s.fmt := rfl
@[simp] theorem blockHeader_gflg (final : Bool) (s : State) : (blockHeader final s).gflg = s.gflg := rfl
@[simp] theorem blockHeader_check (final : Bool) (s : State) : (blockHeader final s).check = s.check := rfl
@[simp] theorem blockHeader_hcheck (final : Bool) (s : State) : (blockHeader final s).hcheck = s.hcheck := rfl
@[simp] theorem blockHeader_havedict (final : Bool) (s : State) : (blockHeader final s).havedict = s.havedict := rfl
@[simp] theorem blockHeader_length (final : Bool) (s : State) : (blockHeader final s).length = s.length := rfl
@[simp] theorem blockHeader_offset (final : Bool) (s : State) : (blockHeader final s).offset = s.offset := rfl
@[simp] theorem blockHeader_extra (final : Bool) (s : State) : (blockHeader final s).extra = s.extra := rfl
@[simp] theorem blockHeader_nlen (final : Bool) (s : State) : (blockHeader final s).nlen = s.nlen := rfl
@[simp] theorem blockHeader_ndist (final : Bool) (s : State) : (blockHeader final s).ndist = s.ndist := rfl
@[simp] theorem blockHeader_ncode (final : Bool) (s : State) : (blockHeader final s).ncode = s.ncode := rfl
@[simp] theorem blockHeader_ncnt (final : Bool) (s : State) : (blockHeader final s).ncnt = s.ncnt := rfl
@[simp] theorem blockHeader_lens (final : Bool) (s : State) : (blockHeader final s).lens = s.lens := rfl
@[simp] theorem blockHeader_lcode (final : Bool) (s : State) : (blockHeader final s).lcode = s.lcode := rfl
@[simp] theorem blockHeader_dcode (final : Bool) (s : State) : (blockHeader final s).dcode = s.dcode := rfl
@[simp] theorem blockHeader_clcode (final : Bool) (s : State) : (blockHeader final s).clcode = s.clcode := rfl
@[simp] theorem blockHeader_win (final : Bool) (s : State) : (blockHeader final s).win = s.win := rfl
@[simp] theorem blockHeader_total (final : Bool) (s : State) : (blockHeader final s).total = s.total := rfl
@[simp] theorem blockHeader_totalIn (final : Bool) (s : State) : (blockHeader final s).totalIn = s.totalIn := rfl
@[simp] theorem blockHeader_totalOut (final : Bool) (s : State) : (blockHeader final s).totalOut = s.totalOut := rfl
@[simp] theorem blockHeader_msg (final : Bool) (s : State) : (blockHeader final s).msg = s.msg := rfl
@[simp] theorem blockHeader_head (final : Bool) (s : State) : (blockHeader final s).head = s.head := rfl
@[simp] theorem blockHeader_src (final : Bool) (s : State) : (blockHeader final s).src = s.src.drop 3 := rfl
@[simp] theorem blockHeader_running (final : Bool) (s : State) : (blockHeader final s).running = s.running := rfl
@[simp] theorem blockHeader_left (final : Bool) (s : State) : (blockHeader final s).left = s.left := rfl
@[simp] theorem blockHeader_outBuf (final : Bool) (s : State) : (blockHeader final s).outBuf = s.outBuf := rfl
@[simp] theorem blockHeader_flush (final : Bool) (s : State) : (blockHeader final s).flush = s.flush := rfl
@[simp] theorem blockHeader_commands (final : Bool) (s : State) : (blockHeader final s).commands = s.commands := rfl
@[simp] theorem blockHeader_reply (final : Bool) (s : State) : (blockHeader final s).reply = s.reply := rfl
@[simp] theorem blockHeader_allocMayFail (final : Bool) (s : State) : (blockHeader final s).allocMayFail = s.allocMayFail := rfl
@[simp] theorem blockHeader_allocDraws (final : Bool) (s : State) : (blockHeader final s).allocDraws = s.allocDraws := rfl

end Sys2Proof.Machine
end

