-- ==== Sys2Proof/Laws/Ops.lean ====
section
/-! SUPPORT. What the shared operations can do: allocation and window update, runs of output bytes, back-reference copies, the end of a call, and the literal and match rules. -/

namespace Sys2Proof.Machine

/-! ### The window -/

/-- An update keeps the size, keeps both pointers in range, and lists nothing outside the window. -/
theorem Window.append_ok {w : Window} (hn : w.wnext < w.wsize) (hh : w.whave ≤ w.wsize)
    (hf : w.whave < w.wsize → w.wnext = w.whave) (data : List Byte) :
    (w.append data).wsize = w.wsize ∧ (w.append data).wnext < w.wsize ∧ (w.append data).whave ≤ w.wsize ∧
      ((w.append data).whave < w.wsize → (w.append data).wnext = (w.append data).whave) := by
  unfold Window.append
  dsimp only
  split
  · exact ⟨rfl, by simp only; omega, le_refl _, fun h => by simp only at h; omega⟩
  · split
    · exact ⟨rfl, by simp only; omega, le_refl _, fun h => by simp only at h; omega⟩
    · simp only
      refine ⟨trivial, ?_, ?_, ?_⟩
      · split <;> omega
      · split <;> omega
      · split <;> split <;> omega

theorem Window.append_wf {w : Window} (h : Memory.wf w.ram) (data : List Byte) :
    Memory.wf (w.append data).ram := by
  unfold Window.append
  dsimp only
  split
  · exact Memory.write_wf h _ _
  · split
    · exact Memory.write_wf (Memory.write_wf h _ _) _ _
    · exact Memory.write_wf h _ _

theorem Window.append_space {w : Window} (hn : w.wnext < w.wsize) {data : List Byte} {c : Host.Cell}
    (h : c ∈ (w.append data).ram) : c ∈ w.ram ∨ c.1 < w.wsize := by
  unfold Window.append at h
  dsimp only at h
  split at h
  · rcases Memory.write_mem h with h | h
    · exact .inl h
    · simp only [List.length_drop] at h; exact .inr (by omega)
  · split at h
    · rcases Memory.write_mem h with h | h
      · rcases Memory.write_mem h with h | h
        · exact .inl h
        · simp only [List.length_take] at h; exact .inr (by omega)
      · simp only [List.length_drop] at h; exact .inr (by omega)
    · rcases Memory.write_mem h with h | h
      · exact .inl h
      · simp only [List.length_take] at h; exact .inr (by omega)

/-- Everything Allocate() can do (45_window.md R402). -/
theorem allocate_cases (s : State) :
    ((allocate s).mode = .mem ∧ (allocate s).win = s.win ∧ s.allocMayFail = true) ∨
    ((allocate s).mode = s.mode ∧ (allocate s).win = ⟨s.win.ram, 2 ^ s.wbits, 0, 0⟩) := by
  unfold allocate
  dsimp only
  split
  · next h =>
    simp only [allocationFails, Bool.and_eq_true] at h
    exact .inl ⟨rfl, rfl, h.1⟩
  · exact .inr ⟨rfl, rfl⟩

/-- Everything WindowUpdate can do (45_window.md R402, R403). -/
theorem windowUpdate_cases (data : List Byte) (s : State) :
    (windowMissing (windowUpdate data s) = true ∧ (windowUpdate data s).mode = .mem ∧
      (windowUpdate data s).win = s.win ∧ s.win.wsize = 0 ∧ s.allocMayFail = true) ∨
    (windowMissing (windowUpdate data s) = false ∧ (windowUpdate data s).mode = s.mode ∧
      (windowUpdate data s).win = (freshWindow s).append data) := by
  have hsize : ∀ w : Window, (w.append data).wsize = w.wsize := by
    intro w; unfold Window.append; dsimp only; split
    · rfl
    · split <;> rfl
  have hpow : (2 : Nat) ^ s.wbits ≠ 0 := by positivity
  unfold windowUpdate freshWindow
  by_cases h0 : s.win.wsize = 0
  · rcases allocate_cases s with ⟨h1, h2, h3⟩ | ⟨h1, h2⟩
    · exact .inl (by simp [h0, windowMissing, h2, h1, h3])
    · exact .inr (by simp [h0, windowMissing, h2, h1, hsize])
  · exact .inr (by simp [h0, windowMissing, hsize])

@[simp] theorem windowUpdate_valid (data : List Byte) (s : State) : (windowUpdate data s).valid = s.valid := by
  unfold windowUpdate allocate
  dsimp only
  repeat' split
  all_goals rfl

@[simp] theorem windowUpdate_wrap (data : List Byte) (s : State) : (windowUpdate data s).wrap = s.wrap := by
  unfold windowUpdate allocate
  dsimp only
  repeat' split
  all_goals rfl

@[simp] theorem windowUpdate_wbits (data : List Byte) (s : State) : (windowUpdate data s).wbits = s.wbits := by
  unfold windowUpdate allocate
  dsimp only
  repeat' split
  all_goals rfl

@[simp] theorem windowUpdate_last (data : List Byte) (s : State) : (windowUpdate data s).last = s.last := by
  unfold windowUpdate allocate
  dsimp only
  repeat' split
  all_goals rfl

@[simp] theorem windowUpdate_fmt (data : List Byte) (s : State) : (windowUpdate data s).fmt = s.fmt := by
  unfold windowUpdate allocate
  dsimp only
  repeat' split
  all_goals rfl

@[simp] theorem windowUpdate_gflg (data : List Byte) (s : State) : (windowUpdate data s).gflg = s.gflg := by
  unfold windowUpdate allocate
  dsimp only
  repeat' split
  all_goals rfl

@[simp] theorem windowUpdate_check (data : List Byte) (s : State) : (windowUpdate data s).check = s.check := by
  unfold windowUpdate allocate
  dsimp only
  repeat' split
  all_goals rfl

@[simp] theorem windowUpdate_hcheck (data : List Byte) (s : State) : (windowUpdate data s).hcheck = s.hcheck := by
  unfold windowUpdate allocate
  dsimp only
  repeat' split
  all_goals rfl

@[simp] theorem windowUpdate_havedict (data : List Byte) (s : State) : (windowUpdate data s).havedict = s.havedict := by
  unfold windowUpdate allocate
  dsimp only
  repeat' split
  all_goals rfl

@[simp] theorem windowUpdate_length (data : List Byte) (s : State) : (windowUpdate data s).length = s.length := by
  unfold windowUpdate allocate
  dsimp only
  repeat' split
  all_goals rfl

@[simp] theorem windowUpdate_offset (data : List Byte) (s : State) : (windowUpdate data s).offset = s.offset := by
  unfold windowUpdate allocate
  dsimp only
  repeat' split
  all_goals rfl

@[simp] theorem windowUpdate_extra (data : List Byte) (s : State) : (windowUpdate data s).extra = s.extra := by
  unfold windowUpdate allocate
  dsimp only
  repeat' split
  all_goals rfl

@[simp] theorem windowUpdate_nlen (data : List Byte) (s : State) : (windowUpdate data s).nlen = s.nlen := by
  unfold windowUpdate allocate
  dsimp only
  repeat' split
  all_goals rfl

@[simp] theorem windowUpdate_ndist (data : List Byte) (s : State) : (windowUpdate data s).ndist = s.ndist := by
  unfold windowUpdate allocate
  dsimp only
  repeat' split
  all_goals rfl

@[simp] theorem windowUpdate_ncode (data : List Byte) (s : State) : (windowUpdate data s).ncode = s.ncode := by
  unfold windowUpdate allocate
  dsimp only
  repeat' split
  all_goals rfl

@[simp] theorem windowUpdate_ncnt (data : List Byte) (s : State) : (windowUpdate data s).ncnt = s.ncnt := by
  unfold windowUpdate allocate
  dsimp only
  repeat' split
  all_goals rfl

@[simp] theorem windowUpdate_lens (data : List Byte) (s : State) : (windowUpdate data s).lens = s.lens := by
  unfold windowUpdate allocate
  dsimp only
  repeat' split
  all_goals rfl

@[simp] theorem windowUpdate_lcode (data : List Byte) (s : State) : (windowUpdate data s).lcode = s.lcode := by
  unfold windowUpdate allocate
  dsimp only
  repeat' split
  all_goals rfl

@[simp] theorem windowUpdate_dcode (data : List Byte) (s : State) : (windowUpdate data s).dcode = s.dcode := by
  unfold windowUpdate allocate
  dsimp only
  repeat' split
  all_goals rfl

@[simp] theorem windowUpdate_clcode (data : List Byte) (s : State) : (windowUpdate data s).clcode = s.clcode := by
  unfold windowUpdate allocate
  dsimp only
  repeat' split
  all_goals rfl

@[simp] theorem windowUpdate_total (data : List Byte) (s : State) : (windowUpdate data s).total = s.total := by
  unfold windowUpdate allocate
  dsimp only
  repeat' split
  all_goals rfl

@[simp] theorem windowUpdate_totalIn (data : List Byte) (s : State) : (windowUpdate data s).totalIn = s.totalIn := by
  unfold windowUpdate allocate
  dsimp only
  repeat' split
  all_goals rfl

@[simp] theorem windowUpdate_totalOut (data : List Byte) (s : State) : (windowUpdate data s).totalOut = s.totalOut := by
  unfold windowUpdate allocate
  dsimp only
  repeat' split
  all_goals rfl

@[simp] theorem windowUpdate_msg (data : List Byte) (s : State) : (windowUpdate data s).msg = s.msg := by
  unfold windowUpdate allocate
  dsimp only
  repeat' split
  all_goals rfl

@[simp] theorem windowUpdate_head (data : List Byte) (s : State) : (windowUpdate data s).head = s.head := by
  unfold windowUpdate allocate
  dsimp only
  repeat' split
  all_goals rfl

@[simp] theorem windowUpdate_src (data : List Byte) (s : State) : (windowUpdate data s).src = s.src := by
  unfold windowUpdate allocate
  dsimp only
  repeat' split
  all_goals rfl

@[simp] theorem windowUpdate_running (data : List Byte) (s : State) : (windowUpdate data s).running = s.running := by
  unfold windowUpdate allocate
  dsimp only
  repeat' split
  all_goals rfl

@[simp] theorem windowUpdate_left (data : List Byte) (s : State) : (windowUpdate data s).left = s.left := by
  unfold windowUpdate allocate
  dsimp only
  repeat' split
  all_goals rfl

@[simp] theorem windowUpdate_outBuf (data : List Byte) (s : State) : (windowUpdate data s).outBuf = s.outBuf := by
  unfold windowUpdate allocate
  dsimp only
  repeat' split
  all_goals rfl

@[simp] theorem windowUpdate_flush (data : List Byte) (s : State) : (windowUpdate data s).flush = s.flush := by
  unfold windowUpdate allocate
  dsimp only
  repeat' split
  all_goals rfl

@[simp] theorem windowUpdate_commands (data : List Byte) (s : State) : (windowUpdate data s).commands = s.commands := by
  unfold windowUpdate allocate
  dsimp only
  repeat' split
  all_goals rfl

@[simp] theorem windowUpdate_reply (data : List Byte) (s : State) : (windowUpdate data s).reply = s.reply := by
  unfold windowUpdate allocate
  dsimp only
  repeat' split
  all_goals rfl

@[simp] theorem windowUpdate_allocMayFail (data : List Byte) (s : State) : (windowUpdate data s).allocMayFail = s.allocMayFail := by
  unfold windowUpdate allocate
  dsimp only
  repeat' split
  all_goals rfl

/-! ### Output -/

@[simp] theorem memWriteAll_valid (data : List Byte) (s : State) : (memWriteAll data s).valid = s.valid := by
  induction data generalizing s with
  | nil => rfl
  | cons b bs ih => exact ih (memWrite b s)

@[simp] theorem memWriteAll_wrap (data : List Byte) (s : State) : (memWriteAll data s).wrap = s.wrap := by
  induction data generalizing s with
  | nil => rfl
  | cons b bs ih => exact ih (memWrite b s)

@[simp] theorem memWriteAll_wbits (data : List Byte) (s : State) : (memWriteAll data s).wbits = s.wbits := by
  induction data generalizing s with
  | nil => rfl
  | cons b bs ih => exact ih (memWrite b s)

@[simp] theorem memWriteAll_mode (data : List Byte) (s : State) : (memWriteAll data s).mode = s.mode := by
  induction data generalizing s with
  | nil => rfl
  | cons b bs ih => exact ih (memWrite b s)

@[simp] theorem memWriteAll_last (data : List Byte) (s : State) : (memWriteAll data s).last = s.last := by
  induction data generalizing s with
  | nil => rfl
  | cons b bs ih => exact ih (memWrite b s)

@[simp] theorem memWriteAll_fmt (data : List Byte) (s : State) : (memWriteAll data s).fmt = s.fmt := by
  induction data generalizing s with
  | nil => rfl
  | cons b bs ih => exact ih (memWrite b s)

@[simp] theorem memWriteAll_gflg (data : List Byte) (s : State) : (memWriteAll data s).gflg = s.gflg := by
  induction data generalizing s with
  | nil => rfl
  | cons b bs ih => exact ih (memWrite b s)

@[simp] theorem memWriteAll_hcheck (data : List Byte) (s : State) : (memWriteAll data s).hcheck = s.hcheck := by
  induction data generalizing s with
  | nil => rfl
  | cons b bs ih => exact ih (memWrite b s)

@[simp] theorem memWriteAll_havedict (data : List Byte) (s : State) : (memWriteAll data s).havedict = s.havedict := by
  induction data generalizing s with
  | nil => rfl
  | cons b bs ih => exact ih (memWrite b s)

@[simp] theorem memWriteAll_length (data : List Byte) (s : State) : (memWriteAll data s).length = s.length := by
  induction data generalizing s with
  | nil => rfl
  | cons b bs ih => exact ih (memWrite b s)

@[simp] theorem memWriteAll_offset (data : List Byte) (s : State) : (memWriteAll data s).offset = s.offset := by
  induction data generalizing s with
  | nil => rfl
  | cons b bs ih => exact ih (memWrite b s)

@[simp] theorem memWriteAll_extra (data : List Byte) (s : State) : (memWriteAll data s).extra = s.extra := by
  induction data generalizing s with
  | nil => rfl
  | cons b bs ih => exact ih (memWrite b s)

@[simp] theorem memWriteAll_nlen (data : List Byte) (s : State) : (memWriteAll data s).nlen = s.nlen := by
  induction data generalizing s with
  | nil => rfl
  | cons b bs ih => exact ih (memWrite b s)

@[simp] theorem memWriteAll_ndist (data : List Byte) (s : State) : (memWriteAll data s).ndist = s.ndist := by
  induction data generalizing s with
  | nil => rfl
  | cons b bs ih => exact ih (memWrite b s)

@[simp] theorem memWriteAll_ncode (data : List Byte) (s : State) : (memWriteAll data s).ncode = s.ncode := by
  induction data generalizing s with
  | nil => rfl
  | cons b bs ih => exact ih (memWrite b s)

@[simp] theorem memWriteAll_ncnt (data : List Byte) (s : State) : (memWriteAll data s).ncnt = s.ncnt := by
  induction data generalizing s with
  | nil => rfl
  | cons b bs ih => exact ih (memWrite b s)

@[simp] theorem memWriteAll_lens (data : List Byte) (s : State) : (memWriteAll data s).lens = s.lens := by
  induction data generalizing s with
  | nil => rfl
  | cons b bs ih => exact ih (memWrite b s)

@[simp] theorem memWriteAll_lcode (data : List Byte) (s : State) : (memWriteAll data s).lcode = s.lcode := by
  induction data generalizing s with
  | nil => rfl
  | cons b bs ih => exact ih (memWrite b s)

@[simp] theorem memWriteAll_dcode (data : List Byte) (s : State) : (memWriteAll data s).dcode = s.dcode := by
  induction data generalizing s with
  | nil => rfl
  | cons b bs ih => exact ih (memWrite b s)

@[simp] theorem memWriteAll_clcode (data : List Byte) (s : State) : (memWriteAll data s).clcode = s.clcode := by
  induction data generalizing s with
  | nil => rfl
  | cons b bs ih => exact ih (memWrite b s)

@[simp] theorem memWriteAll_win (data : List Byte) (s : State) : (memWriteAll data s).win = s.win := by
  induction data generalizing s with
  | nil => rfl
  | cons b bs ih => exact ih (memWrite b s)

@[simp] theorem memWriteAll_total (data : List Byte) (s : State) : (memWriteAll data s).total = s.total := by
  induction data generalizing s with
  | nil => rfl
  | cons b bs ih => exact ih (memWrite b s)

@[simp] theorem memWriteAll_totalIn (data : List Byte) (s : State) : (memWriteAll data s).totalIn = s.totalIn := by
  induction data generalizing s with
  | nil => rfl
  | cons b bs ih => exact ih (memWrite b s)

@[simp] theorem memWriteAll_totalOut (data : List Byte) (s : State) : (memWriteAll data s).totalOut = s.totalOut := by
  induction data generalizing s with
  | nil => rfl
  | cons b bs ih => exact ih (memWrite b s)

@[simp] theorem memWriteAll_msg (data : List Byte) (s : State) : (memWriteAll data s).msg = s.msg := by
  induction data generalizing s with
  | nil => rfl
  | cons b bs ih => exact ih (memWrite b s)

@[simp] theorem memWriteAll_head (data : List Byte) (s : State) : (memWriteAll data s).head = s.head := by
  induction data generalizing s with
  | nil => rfl
  | cons b bs ih => exact ih (memWrite b s)

@[simp] theorem memWriteAll_src (data : List Byte) (s : State) : (memWriteAll data s).src = s.src := by
  induction data generalizing s with
  | nil => rfl
  | cons b bs ih => exact ih (memWrite b s)

@[simp] theorem memWriteAll_running (data : List Byte) (s : State) : (memWriteAll data s).running = s.running := by
  induction data generalizing s with
  | nil => rfl
  | cons b bs ih => exact ih (memWrite b s)

@[simp] theorem memWriteAll_flush (data : List Byte) (s : State) : (memWriteAll data s).flush = s.flush := by
  induction data generalizing s with
  | nil => rfl
  | cons b bs ih => exact ih (memWrite b s)

@[simp] theorem memWriteAll_commands (data : List Byte) (s : State) : (memWriteAll data s).commands = s.commands := by
  induction data generalizing s with
  | nil => rfl
  | cons b bs ih => exact ih (memWrite b s)

@[simp] theorem memWriteAll_reply (data : List Byte) (s : State) : (memWriteAll data s).reply = s.reply := by
  induction data generalizing s with
  | nil => rfl
  | cons b bs ih => exact ih (memWrite b s)

@[simp] theorem memWriteAll_allocMayFail (data : List Byte) (s : State) : (memWriteAll data s).allocMayFail = s.allocMayFail := by
  induction data generalizing s with
  | nil => rfl
  | cons b bs ih => exact ih (memWrite b s)

@[simp] theorem memWriteAll_allocDraws (data : List Byte) (s : State) : (memWriteAll data s).allocDraws = s.allocDraws := by
  induction data generalizing s with
  | nil => rfl
  | cons b bs ih => exact ih (memWrite b s)

@[simp] theorem copyBack_valid (d n : Nat) (s : State) : (copyBack d n s).valid = s.valid := by
  induction n generalizing s with
  | zero => rfl
  | succ n ih => exact ih (memWrite (hist d s) s)

@[simp] theorem copyBack_wrap (d n : Nat) (s : State) : (copyBack d n s).wrap = s.wrap := by
  induction n generalizing s with
  | zero => rfl
  | succ n ih => exact ih (memWrite (hist d s) s)

@[simp] theorem copyBack_wbits (d n : Nat) (s : State) : (copyBack d n s).wbits = s.wbits := by
  induction n generalizing s with
  | zero => rfl
  | succ n ih => exact ih (memWrite (hist d s) s)

@[simp] theorem copyBack_mode (d n : Nat) (s : State) : (copyBack d n s).mode = s.mode := by
  induction n generalizing s with
  | zero => rfl
  | succ n ih => exact ih (memWrite (hist d s) s)

@[simp] theorem copyBack_last (d n : Nat) (s : State) : (copyBack d n s).last = s.last := by
  induction n generalizing s with
  | zero => rfl
  | succ n ih => exact ih (memWrite (hist d s) s)

@[simp] theorem copyBack_fmt (d n : Nat) (s : State) : (copyBack d n s).fmt = s.fmt := by
  induction n generalizing s with
  | zero => rfl
  | succ n ih => exact ih (memWrite (hist d s) s)

@[simp] theorem copyBack_gflg (d n : Nat) (s : State) : (copyBack d n s).gflg = s.gflg := by
  induction n generalizing s with
  | zero => rfl
  | succ n ih => exact ih (memWrite (hist d s) s)

@[simp] theorem copyBack_hcheck (d n : Nat) (s : State) : (copyBack d n s).hcheck = s.hcheck := by
  induction n generalizing s with
  | zero => rfl
  | succ n ih => exact ih (memWrite (hist d s) s)

@[simp] theorem copyBack_havedict (d n : Nat) (s : State) : (copyBack d n s).havedict = s.havedict := by
  induction n generalizing s with
  | zero => rfl
  | succ n ih => exact ih (memWrite (hist d s) s)

@[simp] theorem copyBack_length (d n : Nat) (s : State) : (copyBack d n s).length = s.length := by
  induction n generalizing s with
  | zero => rfl
  | succ n ih => exact ih (memWrite (hist d s) s)

@[simp] theorem copyBack_offset (d n : Nat) (s : State) : (copyBack d n s).offset = s.offset := by
  induction n generalizing s with
  | zero => rfl
  | succ n ih => exact ih (memWrite (hist d s) s)

@[simp] theorem copyBack_extra (d n : Nat) (s : State) : (copyBack d n s).extra = s.extra := by
  induction n generalizing s with
  | zero => rfl
  | succ n ih => exact ih (memWrite (hist d s) s)

@[simp] theorem copyBack_nlen (d n : Nat) (s : State) : (copyBack d n s).nlen = s.nlen := by
  induction n generalizing s with
  | zero => rfl
  | succ n ih => exact ih (memWrite (hist d s) s)

@[simp] theorem copyBack_ndist (d n : Nat) (s : State) : (copyBack d n s).ndist = s.ndist := by
  induction n generalizing s with
  | zero => rfl
  | succ n ih => exact ih (memWrite (hist d s) s)

@[simp] theorem copyBack_ncode (d n : Nat) (s : State) : (copyBack d n s).ncode = s.ncode := by
  induction n generalizing s with
  | zero => rfl
  | succ n ih => exact ih (memWrite (hist d s) s)

@[simp] theorem copyBack_ncnt (d n : Nat) (s : State) : (copyBack d n s).ncnt = s.ncnt := by
  induction n generalizing s with
  | zero => rfl
  | succ n ih => exact ih (memWrite (hist d s) s)

@[simp] theorem copyBack_lens (d n : Nat) (s : State) : (copyBack d n s).lens = s.lens := by
  induction n generalizing s with
  | zero => rfl
  | succ n ih => exact ih (memWrite (hist d s) s)

@[simp] theorem copyBack_lcode (d n : Nat) (s : State) : (copyBack d n s).lcode = s.lcode := by
  induction n generalizing s with
  | zero => rfl
  | succ n ih => exact ih (memWrite (hist d s) s)

@[simp] theorem copyBack_dcode (d n : Nat) (s : State) : (copyBack d n s).dcode = s.dcode := by
  induction n generalizing s with
  | zero => rfl
  | succ n ih => exact ih (memWrite (hist d s) s)

@[simp] theorem copyBack_clcode (d n : Nat) (s : State) : (copyBack d n s).clcode = s.clcode := by
  induction n generalizing s with
  | zero => rfl
  | succ n ih => exact ih (memWrite (hist d s) s)

@[simp] theorem copyBack_win (d n : Nat) (s : State) : (copyBack d n s).win = s.win := by
  induction n generalizing s with
  | zero => rfl
  | succ n ih => exact ih (memWrite (hist d s) s)

@[simp] theorem copyBack_total (d n : Nat) (s : State) : (copyBack d n s).total = s.total := by
  induction n generalizing s with
  | zero => rfl
  | succ n ih => exact ih (memWrite (hist d s) s)

@[simp] theorem copyBack_totalIn (d n : Nat) (s : State) : (copyBack d n s).totalIn = s.totalIn := by
  induction n generalizing s with
  | zero => rfl
  | succ n ih => exact ih (memWrite (hist d s) s)

@[simp] theorem copyBack_totalOut (d n : Nat) (s : State) : (copyBack d n s).totalOut = s.totalOut := by
  induction n generalizing s with
  | zero => rfl
  | succ n ih => exact ih (memWrite (hist d s) s)

@[simp] theorem copyBack_msg (d n : Nat) (s : State) : (copyBack d n s).msg = s.msg := by
  induction n generalizing s with
  | zero => rfl
  | succ n ih => exact ih (memWrite (hist d s) s)

@[simp] theorem copyBack_head (d n : Nat) (s : State) : (copyBack d n s).head = s.head := by
  induction n generalizing s with
  | zero => rfl
  | succ n ih => exact ih (memWrite (hist d s) s)

@[simp] theorem copyBack_src (d n : Nat) (s : State) : (copyBack d n s).src = s.src := by
  induction n generalizing s with
  | zero => rfl
  | succ n ih => exact ih (memWrite (hist d s) s)

@[simp] theorem copyBack_running (d n : Nat) (s : State) : (copyBack d n s).running = s.running := by
  induction n generalizing s with
  | zero => rfl
  | succ n ih => exact ih (memWrite (hist d s) s)

@[simp] theorem copyBack_flush (d n : Nat) (s : State) : (copyBack d n s).flush = s.flush := by
  induction n generalizing s with
  | zero => rfl
  | succ n ih => exact ih (memWrite (hist d s) s)

@[simp] theorem copyBack_commands (d n : Nat) (s : State) : (copyBack d n s).commands = s.commands := by
  induction n generalizing s with
  | zero => rfl
  | succ n ih => exact ih (memWrite (hist d s) s)

@[simp] theorem copyBack_reply (d n : Nat) (s : State) : (copyBack d n s).reply = s.reply := by
  induction n generalizing s with
  | zero => rfl
  | succ n ih => exact ih (memWrite (hist d s) s)

@[simp] theorem copyBack_allocMayFail (d n : Nat) (s : State) : (copyBack d n s).allocMayFail = s.allocMayFail := by
  induction n generalizing s with
  | zero => rfl
  | succ n ih => exact ih (memWrite (hist d s) s)

@[simp] theorem copyBack_allocDraws (d n : Nat) (s : State) : (copyBack d n s).allocDraws = s.allocDraws := by
  induction n generalizing s with
  | zero => rfl
  | succ n ih => exact ih (memWrite (hist d s) s)

theorem memWriteAll_cons (b : Byte) (bs : List Byte) (s : State) :
    memWriteAll (b :: bs) s = memWriteAll bs (memWrite b s) := rfl

@[simp] theorem memWriteAll_outBuf (data : List Byte) (s : State) :
    (memWriteAll data s).outBuf = s.outBuf ++ data := by
  induction data generalizing s with
  | nil => simp [memWriteAll]
  | cons b bs ih => rw [memWriteAll_cons, ih]; simp

@[simp] theorem memWriteAll_left (data : List Byte) (s : State) :
    (memWriteAll data s).left = s.left - data.length := by
  induction data generalizing s with
  | nil => simp [memWriteAll]
  | cons b bs ih => rw [memWriteAll_cons, ih]; simp only [memWrite_left, List.length_cons]; omega

@[simp] theorem copyBack_left (d n : Nat) (s : State) : (copyBack d n s).left = s.left - n := by
  induction n generalizing s with
  | zero => rfl
  | succ n ih => rw [copyBack, ih]; simp only [memWrite_left]; omega

theorem copyBack_outBuf_length (d n : Nat) (s : State) :
    (copyBack d n s).outBuf.length = s.outBuf.length + n := by
  induction n generalizing s with
  | zero => rfl
  | succ n ih => rw [copyBack, ih]; simp only [memWrite_outBuf, List.length_append, List.length_singleton]; omega

/-! ### The end of a call -/

/-- LEAVE in two cases: the epilogue's window allocation fails, or it does not (46_host.md R450). -/
theorem leave_cases (r : Status) (s : State) :
    (s.outBuf ≠ [] ∧ s.win.wsize = 0 ∧ s.allocMayFail = true ∧
      leave r s = endCall .memError (windowUpdate s.outBuf s) ∧ (leave r s).mode = .mem ∧ (leave r s).win = s.win) ∨
    (leave r s = endCall (callStatus r s.src.taken s.outBuf.length s.flush)
        (addTotals (if s.outBuf = [] then s else windowUpdate s.outBuf s)) ∧
      (leave r s).mode = s.mode ∧
      (leave r s).win = if s.outBuf = [] then s.win else (freshWindow s).append s.outBuf) := by
  by_cases ho : s.outBuf = []
  · exact .inr (by simp [leave, ho])
  rcases windowUpdate_cases s.outBuf s with ⟨h1, h2, h3, h4, h5⟩ | ⟨h1, h2, h3⟩
  · exact .inl (by simp [leave, ho, h1, h2, h3, h4, h5])
  · exact .inr (by simp [leave, ho, h1, h2, h3])

@[simp] theorem leave_valid (r : Status) (s : State) : (leave r s).valid = s.valid := by
  unfold leave
  dsimp only
  split <;> split <;> simp

@[simp] theorem leave_wrap (r : Status) (s : State) : (leave r s).wrap = s.wrap := by
  unfold leave
  dsimp only
  split <;> split <;> simp

@[simp] theorem leave_wbits (r : Status) (s : State) : (leave r s).wbits = s.wbits := by
  unfold leave
  dsimp only
  split <;> split <;> simp

@[simp] theorem leave_last (r : Status) (s : State) : (leave r s).last = s.last := by
  unfold leave
  dsimp only
  split <;> split <;> simp

@[simp] theorem leave_fmt (r : Status) (s : State) : (leave r s).fmt = s.fmt := by
  unfold leave
  dsimp only
  split <;> split <;> simp

@[simp] theorem leave_gflg (r : Status) (s : State) : (leave r s).gflg = s.gflg := by
  unfold leave
  dsimp only
  split <;> split <;> simp

@[simp] theorem leave_check (r : Status) (s : State) : (leave r s).check = s.check := by
  unfold leave
  dsimp only
  split <;> split <;> simp

@[simp] theorem leave_hcheck (r : Status) (s : State) : (leave r s).hcheck = s.hcheck := by
  unfold leave
  dsimp only
  split <;> split <;> simp

@[simp] theorem leave_havedict (r : Status) (s : State) : (leave r s).havedict = s.havedict := by
  unfold leave
  dsimp only
  split <;> split <;> simp

@[simp] theorem leave_length (r : Status) (s : State) : (leave r s).length = s.length := by
  unfold leave
  dsimp only
  split <;> split <;> simp

@[simp] theorem leave_offset (r : Status) (s : State) : (leave r s).offset = s.offset := by
  unfold leave
  dsimp only
  split <;> split <;> simp

@[simp] theorem leave_extra (r : Status) (s : State) : (leave r s).extra = s.extra := by
  unfold leave
  dsimp only
  split <;> split <;> simp

@[simp] theorem leave_nlen (r : Status) (s : State) : (leave r s).nlen = s.nlen := by
  unfold leave
  dsimp only
  split <;> split <;> simp

@[simp] theorem leave_ndist (r : Status) (s : State) : (leave r s).ndist = s.ndist := by
  unfold leave
  dsimp only
  split <;> split <;> simp

@[simp] theorem leave_ncode (r : Status) (s : State) : (leave r s).ncode = s.ncode := by
  unfold leave
  dsimp only
  split <;> split <;> simp

@[simp] theorem leave_ncnt (r : Status) (s : State) : (leave r s).ncnt = s.ncnt := by
  unfold leave
  dsimp only
  split <;> split <;> simp

@[simp] theorem leave_lens (r : Status) (s : State) : (leave r s).lens = s.lens := by
  unfold leave
  dsimp only
  split <;> split <;> simp

@[simp] theorem leave_lcode (r : Status) (s : State) : (leave r s).lcode = s.lcode := by
  unfold leave
  dsimp only
  split <;> split <;> simp

@[simp] theorem leave_dcode (r : Status) (s : State) : (leave r s).dcode = s.dcode := by
  unfold leave
  dsimp only
  split <;> split <;> simp

@[simp] theorem leave_clcode (r : Status) (s : State) : (leave r s).clcode = s.clcode := by
  unfold leave
  dsimp only
  split <;> split <;> simp

@[simp] theorem leave_msg (r : Status) (s : State) : (leave r s).msg = s.msg := by
  unfold leave
  dsimp only
  split <;> split <;> simp

@[simp] theorem leave_head (r : Status) (s : State) : (leave r s).head = s.head := by
  unfold leave
  dsimp only
  split <;> split <;> simp

@[simp] theorem leave_flush (r : Status) (s : State) : (leave r s).flush = s.flush := by
  unfold leave
  dsimp only
  split <;> split <;> simp

@[simp] theorem leave_commands (r : Status) (s : State) : (leave r s).commands = s.commands := by
  unfold leave
  dsimp only
  split <;> split <;> simp

@[simp] theorem leave_allocMayFail (r : Status) (s : State) : (leave r s).allocMayFail = s.allocMayFail := by
  unfold leave
  dsimp only
  split <;> split <;> simp

@[simp] theorem leave_running (r : Status) (s : State) : (leave r s).running = false := by
  unfold leave
  dsimp only
  split <;> split <;> simp

@[simp] theorem leave_left (r : Status) (s : State) : (leave r s).left = 0 := by
  unfold leave
  dsimp only
  split <;> split <;> simp

@[simp] theorem leave_outBuf (r : Status) (s : State) : (leave r s).outBuf = [] := by
  unfold leave
  dsimp only
  split <;> split <;> simp

@[simp] theorem leave_src (r : Status) (s : State) : (leave r s).src = ⟨s.src.hold, s.src.bits, [], 0⟩ := by
  unfold leave
  dsimp only
  split <;> split <;> simp

/-- The mode after LEAVE: unchanged, or MEM where an allocation may fail (45_window.md R402). -/
theorem leave_mode (r : Status) (s : State) :
    (leave r s).mode = s.mode ∨ (leave r s).mode = .mem ∧ s.allocMayFail = true := by
  rcases leave_cases r s with ⟨-, -, h1, -, h2, -⟩ | ⟨-, h, -⟩
  · exact .inr ⟨h2, h1⟩
  · exact .inl h

/-! ### Output rules of the symbol modes -/

/-- Everything LIT can do (44_symbols.md R356). -/
theorem litRule_cases (s : State) :
    (s.left = 0 ∧ litRule s = leave .ok s) ∨
    (0 < s.left ∧ litRule s = (memWrite (BitVec.ofNat 8 s.length) s).goto .len) := by
  rcases Nat.eq_zero_or_pos s.left with h | h
  · exact .inl ⟨h, by simp [litRule, h]⟩
  · exact .inr ⟨h, by simp [litRule, Nat.pos_iff_ne_zero.1 h]⟩

/-- Everything MATCH can do (44_symbols.md R355). -/
theorem matchRule_cases (s : State) :
    (s.left = 0 ∧ matchRule s = leave .ok s) ∨
    (0 < s.left ∧ reach s < s.offset ∧ matchRule s = s.raise .e16) ∨
    (0 < s.left ∧ s.offset ≤ reach s ∧
      matchRule s = { copyBack s.offset (min s.length s.left) s with
        length := s.length - min s.length s.left
        mode := if s.length - min s.length s.left = 0 then .len else s.mode }) := by
  rcases Nat.eq_zero_or_pos s.left with h | h
  · exact .inl ⟨h, by simp [matchRule, h]⟩
  · rcases Nat.lt_or_ge (reach s) s.offset with h2 | h2
    · exact .inr (.inl ⟨h, h2, by simp [matchRule, h2, Nat.pos_iff_ne_zero.1 h]⟩)
    · exact .inr (.inr ⟨h, h2, by simp [matchRule, Nat.not_lt.2 h2, Nat.pos_iff_ne_zero.1 h]⟩)

end Sys2Proof.Machine
end

