-- ==== Sys2Proof/Laws/PerInstr.lean ====
section
/-! SUPPORT. The per-instruction family `Width`: the encoder writes as many bits as the instruction's format has (30_encoding.md R111 to R132), and a host command writes none. -/

namespace Sys2Proof

/-- The width of an instruction in the stream by its format (30_encoding.md R111), none for a host command. -/
def Instr.streamWidth : Instr → Option Nat
  | .zlibHeader _ _ => some 16
  | .zlibDictid _ => some 32
  | .zlibAdler32 _ => some 32
  | .gzipMagic => some 16
  | .gzipCmFlg _ _ => some 16
  | .gzipMtime _ => some 32
  | .gzipXflOs _ _ => some 16
  | .gzipXlen _ => some 16
  | .gzipExtra data => some (8 * data.length)
  | .gzipName data => some (8 * data.length)
  | .gzipComment data => some (8 * data.length)
  | .gzipHcrc _ => some 16
  | .gzipCrc32 _ => some 32
  | .gzipIsize _ => some 32
  | .blockStored _ => some 3
  | .blockFixed _ => some 3
  | .blockDynamic _ => some 3
  | .blockReserved _ => some 3
  | .storedLenNlen _ _ => some 32
  | .storedData data => some (8 * data.length)
  | .dynCounts _ _ _ => some 14
  | .dynCllen _ => some 3
  | .clLength cw _ => some cw.len
  | .clRepeatPrev cw _ => some (cw.len + 2)
  | .clZeroShort cw _ => some (cw.len + 3)
  | .clZeroLong cw _ => some (cw.len + 7)
  | .literal cw _ => some cw.len
  | .endOfBlock cw => some cw.len
  | .length257 cw => some cw.len
  | .length258 cw => some cw.len
  | .length259 cw => some cw.len
  | .length260 cw => some cw.len
  | .length261 cw => some cw.len
  | .length262 cw => some cw.len
  | .length263 cw => some cw.len
  | .length264 cw => some cw.len
  | .length265 cw _ => some (cw.len + 1)
  | .length266 cw _ => some (cw.len + 1)
  | .length267 cw _ => some (cw.len + 1)
  | .length268 cw _ => some (cw.len + 1)
  | .length269 cw _ => some (cw.len + 2)
  | .length270 cw _ => some (cw.len + 2)
  | .length271 cw _ => some (cw.len + 2)
  | .length272 cw _ => some (cw.len + 2)
  | .length273 cw _ => some (cw.len + 3)
  | .length274 cw _ => some (cw.len + 3)
  | .length275 cw _ => some (cw.len + 3)
  | .length276 cw _ => some (cw.len + 3)
  | .length277 cw _ => some (cw.len + 4)
  | .length278 cw _ => some (cw.len + 4)
  | .length279 cw _ => some (cw.len + 4)
  | .length280 cw _ => some (cw.len + 4)
  | .length281 cw _ => some (cw.len + 5)
  | .length282 cw _ => some (cw.len + 5)
  | .length283 cw _ => some (cw.len + 5)
  | .length284 cw _ => some (cw.len + 5)
  | .length285 cw => some cw.len
  | .llInvalid cw => some cw.len
  | .distance0 cw => some cw.len
  | .distance1 cw => some cw.len
  | .distance2 cw => some cw.len
  | .distance3 cw => some cw.len
  | .distance4 cw _ => some (cw.len + 1)
  | .distance5 cw _ => some (cw.len + 1)
  | .distance6 cw _ => some (cw.len + 2)
  | .distance7 cw _ => some (cw.len + 2)
  | .distance8 cw _ => some (cw.len + 3)
  | .distance9 cw _ => some (cw.len + 3)
  | .distance10 cw _ => some (cw.len + 4)
  | .distance11 cw _ => some (cw.len + 4)
  | .distance12 cw _ => some (cw.len + 5)
  | .distance13 cw _ => some (cw.len + 5)
  | .distance14 cw _ => some (cw.len + 6)
  | .distance15 cw _ => some (cw.len + 6)
  | .distance16 cw _ => some (cw.len + 7)
  | .distance17 cw _ => some (cw.len + 7)
  | .distance18 cw _ => some (cw.len + 8)
  | .distance19 cw _ => some (cw.len + 8)
  | .distance20 cw _ => some (cw.len + 9)
  | .distance21 cw _ => some (cw.len + 9)
  | .distance22 cw _ => some (cw.len + 10)
  | .distance23 cw _ => some (cw.len + 10)
  | .distance24 cw _ => some (cw.len + 11)
  | .distance25 cw _ => some (cw.len + 11)
  | .distance26 cw _ => some (cw.len + 12)
  | .distance27 cw _ => some (cw.len + 12)
  | .distance28 cw _ => some (cw.len + 13)
  | .distance29 cw _ => some (cw.len + 13)
  | .distInvalid cw => some cw.len
  | .init _ => none
  | .reset _ => none
  | .inflate _ _ _ => none
  | .setDictionary _ => none
  | .getHeader _ => none
  | .teardown => none

/-- How many bits an encoding has, none for a command record. -/
def Encoding.width : Encoding → Option Nat
  | .stream bits => some bits.length
  | .command _ => none

@[simp] theorem bitsLsb_length (n v : Nat) : (bitsLsb n v).length = n := by simp [bitsLsb]

@[simp] theorem Codeword.bits_length (cw : Codeword) : cw.bits.length = cw.len := by simp [Codeword.bits]

@[simp] theorem byteStream_length (data : List Byte) : (byteStream data).length = 8 * data.length := by
  induction data with
  | nil => rfl
  | cons b bs ih =>
    have : byteStream (b :: bs) = bitsLsb 8 b.toNat ++ byteStream bs := rfl
    rw [this, List.length_append, ih, bitsLsb_length, List.length_cons]
    omega

@[simp] theorem le16_length (v : U16) : (le16 v).length = 2 := rfl
@[simp] theorem le32_length (v : U32) : (le32 v).length = 4 := rfl

/-- A whole-byte field or run. -/
theorem Encoding.width_bytes (data : List Byte) :
    (Encoding.stream (byteStream data)).width = some (8 * data.length) := by simp [Encoding.width]

/-- A codeword alone. -/
theorem Encoding.width_codeword (cw : Codeword) : (Encoding.stream cw.bits).width = some cw.len := by
  simp [Encoding.width]

/-- A codeword with an extra field of `n` bits. -/
theorem Encoding.width_extra (cw : Codeword) (n v : Nat) :
    (Encoding.stream (cw.bits ++ bitsLsb n v)).width = some (cw.len + n) := by simp [Encoding.width]

namespace Laws.Width

/-- The encoding of `i` is as wide as its format. -/
def Statement (i : Instr) : Prop := (encode i).width = i.streamWidth

theorem zlibHeader (cmf : Byte) (flg : Byte) : Statement (.zlibHeader cmf flg) := rfl
theorem zlibDictid (id : U32) : Statement (.zlibDictid id) := rfl
theorem zlibAdler32 (v : U32) : Statement (.zlibAdler32 v) := rfl
theorem gzipMagic : Statement .gzipMagic := rfl
theorem gzipCmFlg (cm : Byte) (flg : Byte) : Statement (.gzipCmFlg cm flg) := rfl
theorem gzipMtime (t : U32) : Statement (.gzipMtime t) := rfl
theorem gzipXflOs (xfl : Byte) (os : Byte) : Statement (.gzipXflOs xfl os) := rfl
theorem gzipXlen (n : U16) : Statement (.gzipXlen n) := rfl
theorem gzipExtra (data : List Byte) : Statement (.gzipExtra data) := Encoding.width_bytes data
theorem gzipName (data : List Byte) : Statement (.gzipName data) := Encoding.width_bytes data
theorem gzipComment (data : List Byte) : Statement (.gzipComment data) := Encoding.width_bytes data
theorem gzipHcrc (crc : U16) : Statement (.gzipHcrc crc) := rfl
theorem gzipCrc32 (v : U32) : Statement (.gzipCrc32 v) := rfl
theorem gzipIsize (n : U32) : Statement (.gzipIsize n) := rfl
theorem blockStored (final : Bool) : Statement (.blockStored final) := rfl
theorem blockFixed (final : Bool) : Statement (.blockFixed final) := rfl
theorem blockDynamic (final : Bool) : Statement (.blockDynamic final) := rfl
theorem blockReserved (final : Bool) : Statement (.blockReserved final) := rfl
theorem storedLenNlen (len : U16) (nlen : U16) : Statement (.storedLenNlen len nlen) := rfl
theorem storedData (data : List Byte) : Statement (.storedData data) := Encoding.width_bytes data
theorem dynCounts (hlit : BitVec 5) (hdist : BitVec 5) (hclen : BitVec 4) : Statement (.dynCounts hlit hdist hclen) :=
  rfl
theorem dynCllen (len : BitVec 3) : Statement (.dynCllen len) := rfl
theorem clLength (cw : Codeword) (len : BitVec 4) : Statement (.clLength cw len) := Encoding.width_codeword cw
theorem clRepeatPrev (cw : Codeword) (r : BitVec 2) : Statement (.clRepeatPrev cw r) :=
  Encoding.width_extra cw 2 r.toNat
theorem clZeroShort (cw : Codeword) (r : BitVec 3) : Statement (.clZeroShort cw r) :=
  Encoding.width_extra cw 3 r.toNat
theorem clZeroLong (cw : Codeword) (r : BitVec 7) : Statement (.clZeroLong cw r) :=
  Encoding.width_extra cw 7 r.toNat
theorem literal (cw : Codeword) (v : Byte) : Statement (.literal cw v) := Encoding.width_codeword cw
theorem endOfBlock (cw : Codeword) : Statement (.endOfBlock cw) := Encoding.width_codeword cw
theorem length257 (cw : Codeword) : Statement (.length257 cw) := Encoding.width_codeword cw
theorem length258 (cw : Codeword) : Statement (.length258 cw) := Encoding.width_codeword cw
theorem length259 (cw : Codeword) : Statement (.length259 cw) := Encoding.width_codeword cw
theorem length260 (cw : Codeword) : Statement (.length260 cw) := Encoding.width_codeword cw
theorem length261 (cw : Codeword) : Statement (.length261 cw) := Encoding.width_codeword cw
theorem length262 (cw : Codeword) : Statement (.length262 cw) := Encoding.width_codeword cw
theorem length263 (cw : Codeword) : Statement (.length263 cw) := Encoding.width_codeword cw
theorem length264 (cw : Codeword) : Statement (.length264 cw) := Encoding.width_codeword cw
theorem length265 (cw : Codeword) (x : BitVec 1) : Statement (.length265 cw x) := Encoding.width_extra cw 1 x.toNat
theorem length266 (cw : Codeword) (x : BitVec 1) : Statement (.length266 cw x) := Encoding.width_extra cw 1 x.toNat
theorem length267 (cw : Codeword) (x : BitVec 1) : Statement (.length267 cw x) := Encoding.width_extra cw 1 x.toNat
theorem length268 (cw : Codeword) (x : BitVec 1) : Statement (.length268 cw x) := Encoding.width_extra cw 1 x.toNat
theorem length269 (cw : Codeword) (x : BitVec 2) : Statement (.length269 cw x) := Encoding.width_extra cw 2 x.toNat
theorem length270 (cw : Codeword) (x : BitVec 2) : Statement (.length270 cw x) := Encoding.width_extra cw 2 x.toNat
theorem length271 (cw : Codeword) (x : BitVec 2) : Statement (.length271 cw x) := Encoding.width_extra cw 2 x.toNat
theorem length272 (cw : Codeword) (x : BitVec 2) : Statement (.length272 cw x) := Encoding.width_extra cw 2 x.toNat
theorem length273 (cw : Codeword) (x : BitVec 3) : Statement (.length273 cw x) := Encoding.width_extra cw 3 x.toNat
theorem length274 (cw : Codeword) (x : BitVec 3) : Statement (.length274 cw x) := Encoding.width_extra cw 3 x.toNat
theorem length275 (cw : Codeword) (x : BitVec 3) : Statement (.length275 cw x) := Encoding.width_extra cw 3 x.toNat
theorem length276 (cw : Codeword) (x : BitVec 3) : Statement (.length276 cw x) := Encoding.width_extra cw 3 x.toNat
theorem length277 (cw : Codeword) (x : BitVec 4) : Statement (.length277 cw x) := Encoding.width_extra cw 4 x.toNat
theorem length278 (cw : Codeword) (x : BitVec 4) : Statement (.length278 cw x) := Encoding.width_extra cw 4 x.toNat
theorem length279 (cw : Codeword) (x : BitVec 4) : Statement (.length279 cw x) := Encoding.width_extra cw 4 x.toNat
theorem length280 (cw : Codeword) (x : BitVec 4) : Statement (.length280 cw x) := Encoding.width_extra cw 4 x.toNat
theorem length281 (cw : Codeword) (x : BitVec 5) : Statement (.length281 cw x) := Encoding.width_extra cw 5 x.toNat
theorem length282 (cw : Codeword) (x : BitVec 5) : Statement (.length282 cw x) := Encoding.width_extra cw 5 x.toNat
theorem length283 (cw : Codeword) (x : BitVec 5) : Statement (.length283 cw x) := Encoding.width_extra cw 5 x.toNat
theorem length284 (cw : Codeword) (x : BitVec 5) : Statement (.length284 cw x) := Encoding.width_extra cw 5 x.toNat
theorem length285 (cw : Codeword) : Statement (.length285 cw) := Encoding.width_codeword cw
theorem llInvalid (cw : Codeword) : Statement (.llInvalid cw) := Encoding.width_codeword cw
theorem distance0 (cw : Codeword) : Statement (.distance0 cw) := Encoding.width_codeword cw
theorem distance1 (cw : Codeword) : Statement (.distance1 cw) := Encoding.width_codeword cw
theorem distance2 (cw : Codeword) : Statement (.distance2 cw) := Encoding.width_codeword cw
theorem distance3 (cw : Codeword) : Statement (.distance3 cw) := Encoding.width_codeword cw
theorem distance4 (cw : Codeword) (x : BitVec 1) : Statement (.distance4 cw x) := Encoding.width_extra cw 1 x.toNat
theorem distance5 (cw : Codeword) (x : BitVec 1) : Statement (.distance5 cw x) := Encoding.width_extra cw 1 x.toNat
theorem distance6 (cw : Codeword) (x : BitVec 2) : Statement (.distance6 cw x) := Encoding.width_extra cw 2 x.toNat
theorem distance7 (cw : Codeword) (x : BitVec 2) : Statement (.distance7 cw x) := Encoding.width_extra cw 2 x.toNat
theorem distance8 (cw : Codeword) (x : BitVec 3) : Statement (.distance8 cw x) := Encoding.width_extra cw 3 x.toNat
theorem distance9 (cw : Codeword) (x : BitVec 3) : Statement (.distance9 cw x) := Encoding.width_extra cw 3 x.toNat
theorem distance10 (cw : Codeword) (x : BitVec 4) : Statement (.distance10 cw x) :=
  Encoding.width_extra cw 4 x.toNat
theorem distance11 (cw : Codeword) (x : BitVec 4) : Statement (.distance11 cw x) :=
  Encoding.width_extra cw 4 x.toNat
theorem distance12 (cw : Codeword) (x : BitVec 5) : Statement (.distance12 cw x) :=
  Encoding.width_extra cw 5 x.toNat
theorem distance13 (cw : Codeword) (x : BitVec 5) : Statement (.distance13 cw x) :=
  Encoding.width_extra cw 5 x.toNat
theorem distance14 (cw : Codeword) (x : BitVec 6) : Statement (.distance14 cw x) :=
  Encoding.width_extra cw 6 x.toNat
theorem distance15 (cw : Codeword) (x : BitVec 6) : Statement (.distance15 cw x) :=
  Encoding.width_extra cw 6 x.toNat
theorem distance16 (cw : Codeword) (x : BitVec 7) : Statement (.distance16 cw x) :=
  Encoding.width_extra cw 7 x.toNat
theorem distance17 (cw : Codeword) (x : BitVec 7) : Statement (.distance17 cw x) :=
  Encoding.width_extra cw 7 x.toNat
theorem distance18 (cw : Codeword) (x : BitVec 8) : Statement (.distance18 cw x) :=
  Encoding.width_extra cw 8 x.toNat
theorem distance19 (cw : Codeword) (x : BitVec 8) : Statement (.distance19 cw x) :=
  Encoding.width_extra cw 8 x.toNat
theorem distance20 (cw : Codeword) (x : BitVec 9) : Statement (.distance20 cw x) :=
  Encoding.width_extra cw 9 x.toNat
theorem distance21 (cw : Codeword) (x : BitVec 9) : Statement (.distance21 cw x) :=
  Encoding.width_extra cw 9 x.toNat
theorem distance22 (cw : Codeword) (x : BitVec 10) : Statement (.distance22 cw x) :=
  Encoding.width_extra cw 10 x.toNat
theorem distance23 (cw : Codeword) (x : BitVec 10) : Statement (.distance23 cw x) :=
  Encoding.width_extra cw 10 x.toNat
theorem distance24 (cw : Codeword) (x : BitVec 11) : Statement (.distance24 cw x) :=
  Encoding.width_extra cw 11 x.toNat
theorem distance25 (cw : Codeword) (x : BitVec 11) : Statement (.distance25 cw x) :=
  Encoding.width_extra cw 11 x.toNat
theorem distance26 (cw : Codeword) (x : BitVec 12) : Statement (.distance26 cw x) :=
  Encoding.width_extra cw 12 x.toNat
theorem distance27 (cw : Codeword) (x : BitVec 12) : Statement (.distance27 cw x) :=
  Encoding.width_extra cw 12 x.toNat
theorem distance28 (cw : Codeword) (x : BitVec 13) : Statement (.distance28 cw x) :=
  Encoding.width_extra cw 13 x.toNat
theorem distance29 (cw : Codeword) (x : BitVec 13) : Statement (.distance29 cw x) :=
  Encoding.width_extra cw 13 x.toNat
theorem distInvalid (cw : Codeword) : Statement (.distInvalid cw) := Encoding.width_codeword cw
theorem init (windowBits : Int) : Statement (.init windowBits) := rfl
theorem reset (keep : Bool) : Statement (.reset keep) := rfl
theorem inflate (input : List Byte) (availOut : Nat) (flush : Byte) : Statement (.inflate input availOut flush) :=
  rfl
theorem setDictionary (dict : List Byte) : Statement (.setDictionary dict) := rfl
theorem getHeader (record : HeaderRecord) : Statement (.getHeader record) := rfl
theorem teardown : Statement .teardown := rfl

end Laws.Width

end Sys2Proof
end

