-- ==== Sys2Proof/Laws/Step.lean ====
section
/-! SUPPORT. What the decoder and one step can do: the inversion lemmas from which invariants are derived. -/

namespace Sys2Proof

/-- Everything a fixed-width field can decode to. -/
theorem decodeField_cases (n : Nat) (f : BitStream → Instr) (q : BitStream) :
    (∃ k q', decodeField n f q = .element (f q') q' ∧ BitStream.Pulled k q q' ∧ n ≤ q'.bits ∧
      (k = 0 ∨ q'.bits < n + 8)) ∨
    (∃ q', decodeField n f q = .starved none q' ∧ BitStream.Pulled q.input.length q q' ∧ q'.bits < n) ∨
    (decodeField n f q = .overflow ∧ ∃ k ≤ q.input.length, 24 < q.bits + 8 * k ∧ q.bits + 8 * k < n) := by
  unfold decodeField
  rcases q.need_cases n with ⟨k, q', h1, h2, h3, h4⟩ | ⟨q', h1, h2, h3⟩ | ⟨h1, h2⟩
  · exact .inl ⟨k, q', by rw [h1], h2, h3, h4⟩
  · exact .inr (.inl ⟨q', by rw [h1], h2, h3⟩)
  · exact .inr (.inr ⟨by rw [h1], h2⟩)

/-- Everything an extra field can decode to. -/
theorem decodeExtra_cases (e : Nat) (p : Pending) (f : Nat → Instr) (q : BitStream) :
    (∃ k q', decodeExtra e p f q = .element (f (q'.peekBits e)) q' ∧ BitStream.Pulled k q q' ∧ e ≤ q'.bits ∧
      (k = 0 ∨ q'.bits < e + 8)) ∨
    (∃ q', decodeExtra e p f q = .starved (some p) q' ∧ BitStream.Pulled q.input.length q q' ∧ q'.bits < e) ∨
    (decodeExtra e p f q = .overflow ∧ ∃ k ≤ q.input.length, 24 < q.bits + 8 * k ∧ q.bits + 8 * k < e) := by
  unfold decodeExtra
  rcases q.need_cases e with ⟨k, q', h1, h2, h3, h4⟩ | ⟨q', h1, h2, h3⟩ | ⟨h1, h2⟩
  · exact .inl ⟨k, q', by rw [h1], h2, h3, h4⟩
  · exact .inr (.inl ⟨q', by rw [h1], h2, h3⟩)
  · exact .inr (.inr ⟨by rw [h1], h2⟩)

/-- The answer of a decoder leaves the accumulator in good order. -/
def Fetched.wf : Fetched → Prop
  | .element _ q => q.wf
  | .starved _ q => q.wf
  | .overflow => True

theorem decodeField_wf {q : BitStream} (h : q.wf) (n : Nat) (f : BitStream → Instr) : (decodeField n f q).wf := by
  rcases decodeField_cases n f q with ⟨k, q', h1, h2, -⟩ | ⟨q', h1, h2, -⟩ | ⟨h1, -⟩
  · rw [h1]; exact h2.wf h
  · rw [h1]; exact h2.wf h
  · rw [h1]; trivial

theorem decodeExtra_wf {q : BitStream} (h : q.wf) (e : Nat) (p : Pending) (f : Nat → Instr) :
    (decodeExtra e p f q).wf := by
  rcases decodeExtra_cases e p f q with ⟨k, q', h1, h2, -⟩ | ⟨q', h1, h2, -⟩ | ⟨h1, -⟩
  · rw [h1]; exact h2.wf h
  · rw [h1]; exact h2.wf h
  · rw [h1]; trivial

theorem decodeRun_wf {q : BitStream} (h : q.wf) (data : List Byte) (f : List Byte → Instr) :
    (decodeRun data f q).wf := by
  unfold decodeRun
  split
  · exact h
  · exact BitStream.takeBytes_wf h _

theorem decodeClSymbol_wf {q : BitStream} (h : q.wf) (cw : Codeword) (e : ClEntry) :
    (decodeClSymbol cw e q).wf := by
  unfold decodeClSymbol
  split
  · exact h
  · split
    · exact decodeField_wf h _ _
    · split <;> exact decodeField_wf h _ _

theorem decodeLlSymbol_wf {q : BitStream} (h : q.wf) (cw : Codeword) (e : LlEntry) :
    (decodeLlSymbol cw e q).wf := by
  cases e with
  | lit v => exact h
  | eob => exact h
  | len k => exact decodeExtra_wf h _ _ _
  | invalid => exact h

theorem decodeDistSymbol_wf {q : BitStream} (h : q.wf) (cw : Codeword) (e : DistEntry) :
    (decodeDistSymbol cw e q).wf := by
  cases e with
  | dist k => exact decodeExtra_wf h _ _ _
  | invalid => exact h

/-- Whatever the decoder answers, the accumulator stays in good order. -/
theorem decode_wf {q : BitStream} (h : q.wf) (ctx : Context) : (decode ctx q).wf := by
  cases ctx with
  | codeLengths c =>
    simp only [decode]
    rcases decodePeek_cases c q with ⟨k, q', cw, e, h1, h2, -⟩ | ⟨q', h1, h2, -⟩ | ⟨h1, -⟩
    · rw [h1]; exact decodeClSymbol_wf (h2.wf h) _ _
    · rw [h1]; exact h2.wf h
    · rw [h1]; trivial
  | litLen c =>
    simp only [decode]
    rcases decodePeek_cases c q with ⟨k, q', cw, e, h1, h2, -⟩ | ⟨q', h1, h2, -⟩ | ⟨h1, -⟩
    · rw [h1]; exact decodeLlSymbol_wf (BitStream.drop_wf (h2.wf h) _) _ _
    · rw [h1]; exact h2.wf h
    · rw [h1]; trivial
  | distance c =>
    simp only [decode]
    rcases decodePeek_cases c q with ⟨k, q', cw, e, h1, h2, -⟩ | ⟨q', h1, h2, -⟩ | ⟨h1, -⟩
    · rw [h1]; exact decodeDistSymbol_wf (BitStream.drop_wf (h2.wf h) _) _ _
    · rw [h1]; exact h2.wf h
    · rw [h1]; trivial
  | storedLen => exact decodeField_wf (BitStream.byteBits_wf h) _ _
  | extra n => exact decodeRun_wf h _ _
  | name => exact decodeRun_wf h _ _
  | comment => exact decodeRun_wf h _ _
  | storedData n => exact decodeRun_wf h _ _
  | head w => exact decodeField_wf h _ _
  | flags => exact decodeField_wf h _ _
  | time => exact decodeField_wf h _ _
  | os => exact decodeField_wf h _ _
  | xlen => exact decodeField_wf h _ _
  | hcrc => exact decodeField_wf h _ _
  | dictid => exact decodeField_wf h _ _
  | adler32 => exact decodeField_wf h _ _
  | crc32 => exact decodeField_wf h _ _
  | isize => exact decodeField_wf h _ _
  | blockHeader => exact decodeField_wf h _ _
  | dynCounts => exact decodeField_wf h _ _
  | clLen => exact decodeField_wf h _ _

namespace Machine

/-- Everything a step that goes on can be. -/
inductive StepCases (s t : State) : Prop where
  /-- no call in progress and nothing queued -/
  | idle (hr : s.running = false) (hc : s.commands = []) (ht : t = s)
  /-- the next command -/
  | command (c : Command) (rest : List Command) (hr : s.running = false) (hc : s.commands = c :: rest)
      (hw : (decodeCommand c).wellFormed = true) (ht : exec (decodeCommand c) { s with commands := rest } = .next t)
  /-- an element is fetched and runs -/
  | element (ctx : Context) (i : Instr) (q : BitStream) (hr : s.running = true) (ha : action s = .read ctx)
      (hd : decode ctx s.src = .element i q) (ht : exec i { s with src := q } = .next t)
  /-- the input ends inside an element -/
  | starved (ctx : Context) (p : Option Pending) (q : BitStream) (hr : s.running = true) (ha : action s = .read ctx)
      (hd : decode ctx s.src = .starved p q) (ht : t = starve p q s)
  /-- the mode moves or leaves by itself -/
  | move (hr : s.running = true) (ha : action s = .move (.next t))

theorem step_cases {s t : State} (h : step s = .next t) : StepCases s t := by
  cases hr : s.running with
  | false =>
    unfold step at h
    rw [if_neg (by simp [hr])] at h
    unfold stepHost at h
    split at h
    · next hc => cases h; exact .idle hr hc rfl
    · next c rest hc =>
      split at h
      · next hw => exact .command c rest hr hc hw h
      · cases h
  | true =>
    unfold step at h
    rw [if_pos hr] at h
    unfold stepCall at h
    split at h
    · next r ha => subst h; exact .move hr ha
    · next ctx ha =>
      split at h
      · next i q hd => exact .element ctx i q hr ha hd h
      · next p q hd => cases h; exact .starved ctx p q hr ha hd rfl
      · cases h

/-- The end of input inside an element ends the call. -/
theorem starve_fields (p : Option Pending) (q : BitStream) (s : State) :
    (starve p q s).running = false ∧ (starve p q s).src = ⟨q.hold, q.bits, [], 0⟩ ∧ (starve p q s).outBuf = [] ∧
      (starve p q s).left = 0 := by
  unfold starve suspend
  split <;> simp

end Machine

end Sys2Proof
end

