-- ==== Sys2Proof/Laws/Table.lean ====
section
/-! SUPPORT. The laws of packed entries: which of them R306's test calls links. -/

namespace Sys2Proof

namespace TableEntry

theorem isLink_mk (op bits : BitVec 8) (val : BitVec 16) :
    (⟨op, bits, val⟩ : TableEntry).isLink = (op != 0 && op &&& 0xF0 == 0) := rfl

@[simp] theorem unfilled_isLink : unfilled.isLink = false := rfl

/-- 43_huffman.md R306: a link's `op` is the width of its sub-table, 1 to 15. -/
theorem link_isLink {t : Nat} (lo : 1 ≤ t) (hi : t ≤ 15) (bits : BitVec 8) (val : BitVec 16) :
    (⟨BitVec.ofNat 8 t, bits, val⟩ : TableEntry).isLink = true := by
  rw [isLink_mk]
  interval_cases t <;> decide

/-- A width of R306's entries is read back as it was stored. -/
theorem width_toNat {l : Nat} (h : l ≤ 15) : (BitVec.ofNat 8 l).toNat = l := by
  simp only [BitVec.toNat_ofNat]
  omega

end TableEntry

@[simp] theorem ClEntry.packed_isLink (e : ClEntry) (bits : BitVec 8) (val : BitVec 16) :
    (⟨e.packed.1, bits, val⟩ : TableEntry).isLink = false := by
  rw [TableEntry.isLink_mk]
  cases e <;> rfl

@[simp] theorem LlEntry.packed_isLink (e : LlEntry) (bits : BitVec 8) (val : BitVec 16) :
    (⟨e.packed.1, bits, val⟩ : TableEntry).isLink = false := by
  rw [TableEntry.isLink_mk]
  cases e with
  | len k => revert k; decide
  | lit v => simp [LlEntry.packed]
  | eob => decide
  | invalid => decide

@[simp] theorem DistEntry.packed_isLink (e : DistEntry) (bits : BitVec 8) (val : BitVec 16) :
    (⟨e.packed.1, bits, val⟩ : TableEntry).isLink = false := by
  rw [TableEntry.isLink_mk]
  cases e with
  | dist k => revert k; decide
  | invalid => decide

end Sys2Proof
end

