-- ==== Sys2Proof/Machine/Notation.lean ====
section
/-! DEFINITION. The assembler notation for streams (30_encoding.md R110, R133, R134): what each piece expands to, and the bytes of a stream. It is not used by `step`. -/

namespace Sys2Proof

/-- A code-length symbol of `lens[..]` with its extra value (R133, R119). -/
inductive ClPiece where
  | len (v : BitVec 4)
  | r16 (x : BitVec 2)
  | z17 (x : BitVec 3)
  | z18 (x : BitVec 7)
deriving DecidableEq, Repr

/-- The pieces of the notation (R133); `mat` is `M(len, dist)`. -/
inductive Piece where
  | zlib (cmf flg : Byte)
  | dictid (x : U32)
  | adler (x : U32)
  | gzip (flg : Byte) (mtime : U32) (xfl os : Byte) (extra name comment : Option (List Byte)) (hcrc : Option U16)
  | crc (x : U32)
  | isize (n : U32)
  | blk (final : Bool) (btype : BitVec 2)
  | stored (data : List Byte)
  | dyn (hlit hdist : BitVec 5) (hclen : BitVec 4) (cl : List (BitVec 3)) (lens : List ClPiece)
  | lit (c : Byte)
  | mat (len dist : Nat)
  | eob
deriving DecidableEq, Repr

/-- A stream being written: its bits, and the codes of the current block. -/
structure Assembly where
  bits : List Bool
  lcode : Code LlEntry
  dcode : Code DistEntry
deriving DecidableEq, Repr

/-- The bits an instruction adds to a stream; a command adds none. -/
def Instr.streamBits (i : Instr) : List Bool :=
  match encode i with
  | .stream bits => bits
  | .command _ => []

/-- Elements written one after another. -/
def Assembly.emit (elements : List Instr) (a : Assembly) : Assembly :=
  { a with bits := a.bits ++ elements.flatMap Instr.streamBits }

/-- Zero bits up to a byte boundary (R116, R127, R130). -/
def Assembly.align (a : Assembly) : Assembly :=
  { a with bits := a.bits ++ List.replicate ((8 - a.bits.length % 8) % 8) false }

/-- The codeword of an entry. -/
def Code.codewordOf {ε : Type} [DecidableEq ε] (c : Code ε) (e : ε) : Option Codeword :=
  (c.find? (fun p => p.2 == e)).map Prod.fst

/-- The length symbol, less 257, whose range holds `len`; 258 is symbol 285 (R134). -/
def lengthSymbolOf (len : Nat) : Option (Fin 29) :=
  (List.finRange 29).find? (fun k =>
    decide (lengthBase k ≤ len) && decide (len < lengthBase k + 2 ^ lengthExtra k) && !(k == 27 && len == 258))

/-- The distance symbol whose range holds `dist` (R134). -/
def distanceSymbolOf (dist : Nat) : Option (Fin 30) :=
  (List.finRange 30).find? (fun k =>
    decide (distanceBase k ≤ dist) && decide (dist < distanceBase k + 2 ^ distanceExtra k))

/-- `M(len, dist)` expands to a length and a distance element (R134). -/
def expandMatch (len dist : Nat) (a : Assembly) : Option (List Instr) := do
  let l ← lengthSymbolOf len
  let d ← distanceSymbolOf dist
  let lw ← a.lcode.codewordOf (.len l)
  let dw ← a.dcode.codewordOf (.dist d)
  some [lengthInstr l lw (len - lengthBase l), distanceInstr d dw (dist - distanceBase d)]

/-- The lengths `lens[..]` stands for, after those listed in reverse in `done` (R119). -/
def clLengthsFrom : List Nat → List ClPiece → List Nat
  | done, [] => done.reverse
  | done, .len v :: rest => clLengthsFrom (v.toNat :: done) rest
  | done, .r16 x :: rest => clLengthsFrom (List.replicate (repeatPrevCount x) (done.headD 0) ++ done) rest
  | done, .z17 x :: rest => clLengthsFrom (List.replicate (zeroShortCount x) 0 ++ done) rest
  | done, .z18 x :: rest => clLengthsFrom (List.replicate (zeroLongCount x) 0 ++ done) rest

/-- The element of a code-length symbol under the code-length code. -/
def expandCl (c : Code ClEntry) : ClPiece → Option Instr
  | .len v => (c.codewordOf (clEntry v.toNat)).map (fun cw => .clLength cw v)
  | .r16 x => (c.codewordOf (.sym 16)).map (fun cw => .clRepeatPrev cw x)
  | .z17 x => (c.codewordOf (.sym 17)).map (fun cw => .clZeroShort cw x)
  | .z18 x => (c.codewordOf (.sym 18)).map (fun cw => .clZeroLong cw x)

/-- The lengths of the code-length code by symbol, from `cl[..]` in ORDER (R118). -/
def clLengthsByOrder (cl : List (BitVec 3)) : List Nat :=
  (clOrder.zip cl).foldl (fun acc p => acc.set p.1 p.2.toNat) (List.replicate 19 0)

/-- `dyn(..) cl[..] lens[..]`: the dynamic header, and the codes it sets (R117, R133). -/
def assembleDyn (hlit hdist : BitVec 5) (hclen : BitVec 4) (cl : List (BitVec 3)) (lens : List ClPiece)
    (a : Assembly) : Option Assembly := do
  let clcode ← buildClCode (clLengthsByOrder cl)
  let symbols ← lens.mapM (expandCl clcode)
  let all := clLengthsFrom [] lens
  let l ← buildLlCode (all.take (nlenOf hlit))
  let d ← buildDistCode ((all.drop (nlenOf hlit)).take (ndistOf hdist))
  some { a.emit (.dynCounts hlit hdist hclen :: cl.map .dynCllen ++ symbols) with lcode := l, dcode := d }

/-- A block header element by its BTYPE (R115). -/
def blockHeaderInstr (final : Bool) (btype : BitVec 2) : Instr :=
  match btype.toNat with
  | 0 => .blockStored final
  | 1 => .blockFixed final
  | 2 => .blockDynamic final
  | _ => .blockReserved final

/-- The elements of an optional header field. -/
def optionalField {α : Type} (f : α → List Instr) : Option α → List Instr
  | none => []
  | some x => f x

/-- `gzip(..)`: the elements of a gzip header (R128, R129); a name or comment is written with its NUL. -/
def gzipElements (flg : Byte) (mtime : U32) (xfl os : Byte) (extra name comment : Option (List Byte))
    (hcrc : Option U16) : List Instr :=
  List.flatten [
    [Instr.gzipMagic, Instr.gzipCmFlg 8 flg, Instr.gzipMtime mtime, Instr.gzipXflOs xfl os],
    optionalField (fun x => [Instr.gzipXlen (BitVec.ofNat 16 x.length), Instr.gzipExtra x]) extra,
    optionalField (fun x => [Instr.gzipName (x ++ [0])]) name,
    optionalField (fun x => [Instr.gzipComment (x ++ [0])]) comment,
    optionalField (fun x => [Instr.gzipHcrc x]) hcrc]

/-- One piece of a stream, none where the current codes or the format cannot write it (R133, R134). -/
def Piece.assemble (a : Assembly) : Piece → Option Assembly
  | .zlib cmf flg => some (a.emit [.zlibHeader cmf flg])
  | .dictid x => some (a.emit [.zlibDictid x])
  | .adler x => some (a.align.emit [.zlibAdler32 x])
  | .gzip flg mtime xfl os extra name comment hcrc =>
    some (a.emit (gzipElements flg mtime xfl os extra name comment hcrc))
  | .crc x => some (a.align.emit [.gzipCrc32 x])
  | .isize n => some (a.emit [.gzipIsize n])
  | .blk final btype =>
    let a' := a.emit [blockHeaderInstr final btype]
    some (if btype = 1 then { a' with lcode := fixedLl, dcode := fixedDist } else a')
  | .stored data =>
    if data.length < 2 ^ 16 then
      some (a.align.emit
        [.storedLenNlen (BitVec.ofNat 16 data.length) (BitVec.ofNat 16 data.length ^^^ 0xFFFF), .storedData data])
    else none
  | .dyn hlit hdist hclen cl lens => assembleDyn hlit hdist hclen cl lens a
  | .lit c => (a.lcode.codewordOf (.lit c)).map (fun cw => a.emit [.literal cw c])
  | .mat len dist => (expandMatch len dist a).map (fun elements => a.emit elements)
  | .eob => (a.lcode.codewordOf .eob).map (fun cw => a.emit [.endOfBlock cw])

/-- The bytes of a stream, its last byte padded with zero bits (R133). -/
def assemble (pieces : List Piece) : Option (List Byte) :=
  (pieces.foldlM Piece.assemble ⟨[], [], []⟩).map (fun a => packBits a.bits)

end Sys2Proof
end

