-- ==== Sys2Proof/Tests/Slice0.lean ====
section
/-! SUPPORT. The model's own tests: ill-formed terms that WellFormed refuses, words written out from the encodings of 30_encoding.md, one-step results taken from the worked examples of spec/, and for every statement with hypotheses a state that meets them. -/

namespace Sys2Proof.Tests

open Sys2Proof Sys2Proof.Machine

set_option Elab.async false

/-- A call in progress in mode `m`. -/
def call (m : Mode) : State := { State.reset with mode := m, running := true }

/-- A call in progress in mode `m` with input and output space. -/
def fed (m : Mode) (input : List Byte) (left : Nat) : State := { call m with src := ⟨0, 0, input, 0⟩, left := left }

/-- A field of the next state. -/
def after {α : Type} (r : Result) (f : State → α) : Option α :=
  match r with
  | .next t => some (f t)
  | .fault _ => none
  | .refused _ => none

/-- The instruction decoded. -/
def instrOf : Fetched → Option Instr
  | .element i _ => some i
  | .starved _ _ => none
  | .overflow => none

/-- The instruction that bytes at the start of a stream are, in a context. -/
def word (ctx : Context) (bytes : List Byte) : Option Instr := instrOf (decode ctx (.ofBytes bytes))

/-- A literal/length code of two codewords. -/
def code2 : Code LlEntry := [(⟨1, 0⟩, .lit 97), (⟨1, 1⟩, .eob)]

/-- A literal/length code with a length symbol that has an extra bit. -/
def codeLen : Code LlEntry := [(⟨1, 0⟩, .len 8), (⟨1, 1⟩, .eob)]

/-- A distance code of two codewords. -/
def dist2 : Code DistEntry := [(⟨1, 0⟩, .dist 4), (⟨1, 1⟩, .invalid)]

/-- A code-length code with the symbols 0, 16, 17 and 18, two bits each (42_blocks.md R256's example). -/
def clCode4 : Code ClEntry := [(⟨2, 0⟩, .sym 0), (⟨2, 1⟩, .sym 16), (⟨2, 2⟩, .sym 17), (⟨2, 3⟩, .sym 18)]

/-! ### WellFormed refuses -/

theorem test_illformed_codeword_empty : (Instr.endOfBlock ⟨0, 0⟩).wellFormed = false := by decide +kernel
theorem test_illformed_codeword_long : (Instr.endOfBlock ⟨16, 0⟩).wellFormed = false := by decide +kernel
theorem test_illformed_codeword_value : (Instr.literal ⟨3, 8⟩ 0).wellFormed = false := by decide +kernel
theorem test_illformed_cl_codeword : (Instr.clLength ⟨8, 0⟩ 0).wellFormed = false := by decide +kernel
theorem test_illformed_raw_empty : (Instr.storedData []).wellFormed = false := by decide +kernel
theorem test_illformed_raw_long (data : List Byte) (h : data.length = 65536) :
    (Instr.gzipExtra data).wellFormed = false := by simp [Instr.wellFormed, rawRunWellFormed, h]
theorem test_illformed_strz_empty : (Instr.gzipName []).wellFormed = false := by decide +kernel
theorem test_illformed_strz_inner_nul : (Instr.gzipComment [0, 65]).wellFormed = false := by decide +kernel
theorem test_illformed_record_extra : (Instr.getHeader { extra := some [1], extraMax := 0 }).wellFormed = false := by decide +kernel
theorem test_illformed_record_name : (Instr.getHeader { name := some [1], nameMax := 0 }).wellFormed = false := by decide +kernel
theorem test_illformed_record_comment :
    (Instr.getHeader { comment := some [1], commentMax := 0 }).wellFormed = false := by decide +kernel
theorem test_illformed_output_count : (Instr.inflate [] (2 ^ 32) 0).wellFormed = false := by decide +kernel
theorem test_illformed_input_count (input : List Byte) (h : input.length = 2 ^ 32) :
    (Instr.inflate input 0 0).wellFormed = false := by simp [Instr.wellFormed, h]

/-! ### Words written out from 30_encoding.md -/

/-- R126, R127, R128, R130 and 20_memory.md R87. -/
theorem test_words_of_fields :
    word (.head .zlib) [0x78, 0x9C] = some (.zlibHeader 0x78 0x9C) ∧
    word .dictid [0x0A, 0x1B, 0x2C, 0x3D] = some (.zlibDictid 0x0A1B2C3D) ∧
    word .adler32 [0x21, 0xE7, 0x04, 0x93] = some (.zlibAdler32 0x21E70493) ∧
    word (.head .gzip) [0x1F, 0x8B] = some .gzipMagic ∧
    word (.head .zlib) [0x1F, 0x8B] = some (.zlibHeader 0x1F 0x8B) ∧
    word .flags [0x08, 0x1F] = some (.gzipCmFlg 0x08 0x1F) ∧
    word .time [0x78, 0x56, 0x34, 0x12] = some (.gzipMtime 0x12345678) ∧
    word .os [0x02, 0x03] = some (.gzipXflOs 0x02 0x03) ∧
    word .xlen [0x03, 0x01] = some (.gzipXlen 0x0103) ∧
    word (.extra 3) [0x58, 0x59, 0x5A, 0x61] = some (.gzipExtra [0x58, 0x59, 0x5A]) ∧
    word .name [0x61, 0x2E, 0x00, 0x63] = some (.gzipName [0x61, 0x2E, 0x00]) ∧
    word .comment [0x63, 0x00, 0x9B] = some (.gzipComment [0x63, 0x00]) ∧
    word .hcrc [0x9B, 0x71] = some (.gzipHcrc 0x719B) ∧
    word .crc32 [0x53, 0x74, 0x24, 0xF4] = some (.gzipCrc32 0xF4247453) ∧
    word .isize [0x0D, 0x00, 0x00, 0x01] = some (.gzipIsize 0x0100000D) := by decide +kernel

/-- R114 to R119: BFINAL is the first bit; LEN and NLEN; HLIT 29, HDIST 1, HCLEN 14; a repeat code with its bits. -/
theorem test_words_of_blocks :
    word .blockHeader [0b001] = some (.blockStored true) ∧
    word .blockHeader [0b010] = some (.blockFixed false) ∧
    word .blockHeader [0b101] = some (.blockDynamic true) ∧
    word .blockHeader [0b110] = some (.blockReserved false) ∧
    word .storedLen [0x05, 0x00, 0xFA, 0xFF] = some (.storedLenNlen 0x0005 0xFFFA) ∧
    word (.storedData 2) [0x68, 0x65, 0x6C] = some (.storedData [0x68, 0x65]) ∧
    word .dynCounts [0b00111101, 0b00111000] = some (.dynCounts 29 1 14) ∧
    word .clLen [0b110] = some (.dynCllen 6) ∧
    word (.codeLengths clCode4) [0b00] = some (.clLength ⟨2, 0⟩ 0) ∧
    word (.codeLengths clCode4) [0b0110] = some (.clRepeatPrev ⟨2, 1⟩ 1) ∧
    word (.codeLengths clCode4) [0b10001] = some (.clZeroShort ⟨2, 2⟩ 4) ∧
    word (.codeLengths clCode4) [0b01000011, 0b1] = some (.clZeroLong ⟨2, 3⟩ 0b1010000) := by decide +kernel

/-- R125, R120: `a` is 10010001, 200 is 111001000 (nine bits), the end of block 0000000, 286 is 11000110; R123: 30 is 11110. -/
theorem test_words_of_fixed_literals :
    word (.litLen fixedLl) [0x89] = some (.literal ⟨8, 0b10010001⟩ 97) ∧
    word (.litLen fixedLl) [0x27, 0x00] = some (.literal ⟨9, 0b111001000⟩ 200) ∧
    word (.litLen fixedLl) [0x00] = some (.endOfBlock ⟨7, 0⟩) ∧
    word (.litLen fixedLl) [0b01100011] = some (.llInvalid ⟨8, 0b11000110⟩) ∧
    word (.distance fixedDist) [0b01111] = some (.distInvalid ⟨5, 0b11110⟩) := by decide +kernel

/-- R121, R125: each length symbol's fixed codeword, most significant bit first, then extra bits of value 1. -/
def lengthWords : List (List Byte × Instr) :=
  [([0x40], .length257 ⟨7, 0b0000001⟩),
   ([0x20], .length258 ⟨7, 0b0000010⟩),
   ([0x60], .length259 ⟨7, 0b0000011⟩),
   ([0x10], .length260 ⟨7, 0b0000100⟩),
   ([0x50], .length261 ⟨7, 0b0000101⟩),
   ([0x30], .length262 ⟨7, 0b0000110⟩),
   ([0x70], .length263 ⟨7, 0b0000111⟩),
   ([0x08], .length264 ⟨7, 0b0001000⟩),
   ([0xC8], .length265 ⟨7, 0b0001001⟩ 1),
   ([0xA8], .length266 ⟨7, 0b0001010⟩ 1),
   ([0xE8], .length267 ⟨7, 0b0001011⟩ 1),
   ([0x98], .length268 ⟨7, 0b0001100⟩ 1),
   ([0xD8, 0x00], .length269 ⟨7, 0b0001101⟩ 1),
   ([0xB8, 0x00], .length270 ⟨7, 0b0001110⟩ 1),
   ([0xF8, 0x00], .length271 ⟨7, 0b0001111⟩ 1)]

/-- The other half. -/
def lengthWordsHigh : List (List Byte × Instr) :=
  [([0x84, 0x00], .length272 ⟨7, 0b0010000⟩ 1),
   ([0xC4, 0x00], .length273 ⟨7, 0b0010001⟩ 1),
   ([0xA4, 0x00], .length274 ⟨7, 0b0010010⟩ 1),
   ([0xE4, 0x00], .length275 ⟨7, 0b0010011⟩ 1),
   ([0x94, 0x00], .length276 ⟨7, 0b0010100⟩ 1),
   ([0xD4, 0x00], .length277 ⟨7, 0b0010101⟩ 1),
   ([0xB4, 0x00], .length278 ⟨7, 0b0010110⟩ 1),
   ([0xF4, 0x00], .length279 ⟨7, 0b0010111⟩ 1),
   ([0x03, 0x01], .length280 ⟨8, 0b11000000⟩ 1),
   ([0x83, 0x01], .length281 ⟨8, 0b11000001⟩ 1),
   ([0x43, 0x01], .length282 ⟨8, 0b11000010⟩ 1),
   ([0xC3, 0x01], .length283 ⟨8, 0b11000011⟩ 1),
   ([0x23, 0x01], .length284 ⟨8, 0b11000100⟩ 1),
   ([0xA3], .length285 ⟨8, 0b11000101⟩)]

theorem test_words_of_lengths :
    (lengthWords ++ lengthWordsHigh).all (fun p => word (.litLen fixedLl) p.1 == some p.2) = true := by decide +kernel

/-- R123, R125: each distance symbol's 5-bit fixed codeword, then extra bits of value 1. -/
def distanceWords : List (List Byte × Instr) :=
  [([0x00], .distance0 ⟨5, 0b00000⟩),
   ([0x10], .distance1 ⟨5, 0b00001⟩),
   ([0x08], .distance2 ⟨5, 0b00010⟩),
   ([0x18], .distance3 ⟨5, 0b00011⟩),
   ([0x24], .distance4 ⟨5, 0b00100⟩ 1),
   ([0x34], .distance5 ⟨5, 0b00101⟩ 1),
   ([0x2C], .distance6 ⟨5, 0b00110⟩ 1),
   ([0x3C], .distance7 ⟨5, 0b00111⟩ 1),
   ([0x22], .distance8 ⟨5, 0b01000⟩ 1),
   ([0x32], .distance9 ⟨5, 0b01001⟩ 1),
   ([0x2A, 0x00], .distance10 ⟨5, 0b01010⟩ 1),
   ([0x3A, 0x00], .distance11 ⟨5, 0b01011⟩ 1),
   ([0x26, 0x00], .distance12 ⟨5, 0b01100⟩ 1),
   ([0x36, 0x00], .distance13 ⟨5, 0b01101⟩ 1),
   ([0x2E, 0x00], .distance14 ⟨5, 0b01110⟩ 1)]

/-- The other half. -/
def distanceWordsHigh : List (List Byte × Instr) :=
  [([0x3E, 0x00], .distance15 ⟨5, 0b01111⟩ 1),
   ([0x21, 0x00], .distance16 ⟨5, 0b10000⟩ 1),
   ([0x31, 0x00], .distance17 ⟨5, 0b10001⟩ 1),
   ([0x29, 0x00], .distance18 ⟨5, 0b10010⟩ 1),
   ([0x39, 0x00], .distance19 ⟨5, 0b10011⟩ 1),
   ([0x25, 0x00], .distance20 ⟨5, 0b10100⟩ 1),
   ([0x35, 0x00], .distance21 ⟨5, 0b10101⟩ 1),
   ([0x2D, 0x00], .distance22 ⟨5, 0b10110⟩ 1),
   ([0x3D, 0x00], .distance23 ⟨5, 0b10111⟩ 1),
   ([0x23, 0x00], .distance24 ⟨5, 0b11000⟩ 1),
   ([0x33, 0x00], .distance25 ⟨5, 0b11001⟩ 1),
   ([0x2B, 0x00, 0x00], .distance26 ⟨5, 0b11010⟩ 1),
   ([0x3B, 0x00, 0x00], .distance27 ⟨5, 0b11011⟩ 1),
   ([0x27, 0x00, 0x00], .distance28 ⟨5, 0b11100⟩ 1),
   ([0x37, 0x00, 0x00], .distance29 ⟨5, 0b11101⟩ 1)]

theorem test_words_of_distances :
    (distanceWords ++ distanceWordsHigh).all (fun p => word (.distance fixedDist) p.1 == some p.2) = true := by decide +kernel

/-- R135: the command records. -/
theorem test_command_records :
    decodeCommand (.init (-15)) = .init (-15) ∧ decodeCommand (.reset true) = .reset true ∧
    decodeCommand (.inflate [1] 2 4) = .inflate [1] 2 4 ∧ decodeCommand (.setDictionary [3]) = .setDictionary [3] ∧
    decodeCommand (.getHeader { nameMax := 5 }) = .getHeader { nameMax := 5 } ∧
    decodeCommand .teardown = .teardown := by decide +kernel

/-- The encoder writes `a` and the match of 44_symbols.md R362 as its stream does: after 3 header bits, 4B 4C 84 01 00. -/
theorem test_encode_worked_stream :
    (match encode (.blockFixed true), encode (.literal ⟨8, 0b10010001⟩ 97), encode (.length262 ⟨7, 0b0000110⟩),
        encode (.distance0 ⟨5, 0⟩), encode (.endOfBlock ⟨7, 0⟩) with
      | .stream b, .stream l, .stream m, .stream d, .stream e => packBits (b ++ l ++ l ++ m ++ d ++ e)
      | _, _, _, _, _ => []) = [0x4B, 0x4C, 0x84, 0x01, 0x00] := by decide +kernel

/-- The opcode table's words: its ZLIB_HEADER and GZIP_MAGIC rows, FLG, and the four block headers. -/
theorem test_table_words :
    decodeTableWord 16 0x9C78 = some (.zlibHeader 0x78 0x9C) ∧ decodeTableWord 16 0x8B1F = some .gzipMagic ∧
    decodeTableWord 16 0x0808 = some (.gzipCmFlg 8 8) ∧ decodeTableWord 8 0b000 = some (.blockStored false) ∧
    decodeTableWord 8 0b010 = some (.blockFixed false) ∧ decodeTableWord 8 0b100 = some (.blockDynamic false) ∧
    decodeTableWord 8 0b110 = some (.blockReserved false) := by decide +kernel

/-- S-4: `zlib(78,9C) blk(1,01) L('x') M(100, 1) EOB adler(0x6F742F59)`. -/
theorem test_notation_fixed :
    assemble [.zlib 0x78 0x9C, .blk true 1, .lit 0x78, .mat 100 1, .eob, .adler 0x6F742F59] =
      some [0x78, 0x9C, 0xAB, 0xA0, 0x07, 0x00, 0x00, 0x6F, 0x74, 0x2F, 0x59] := by decide +kernel

/-- 95_test_vectors.md program P3, a dynamic block. -/
theorem test_notation_dynamic :
    assemble [.blk true 2,
      .dyn 1 1 14 [0, 0, 1, 0, 0, 0, 0, 0, 0, 0, 0, 0, 0, 0, 0, 2, 0, 2]
        [.z18 86, .len 2, .len 2, .z18 127, .z18 8, .len 2, .len 2, .len 1, .len 1],
      .lit 0x61, .lit 0x62, .mat 3 2, .eob] =
      some [0x0D, 0xC1, 0x81, 0x00, 0x00, 0x00, 0x00, 0x80, 0x20, 0xD6, 0xF7, 0x87, 0xF8, 0xC2, 0x07] := by
  decide +kernel

/-- Program P2's first part: a gzip header with every field, then a stored block. -/
theorem test_notation_gzip_stored :
    assemble [.gzip 0x1F 0x12345678 2 3 (some [0x58, 0x59, 0x5A]) (some [0x61, 0x2E, 0x74, 0x78, 0x74]) (some [0x63])
      (some 0x719B), .blk false 0, .stored [0x68, 0x69]] =
      some [0x1F, 0x8B, 0x08, 0x1F, 0x78, 0x56, 0x34, 0x12, 0x02, 0x03, 0x03, 0x00, 0x58, 0x59, 0x5A, 0x61, 0x2E, 0x74,
        0x78, 0x74, 0x00, 0x63, 0x00, 0x9B, 0x71, 0x00, 0x02, 0x00, 0xFD, 0xFF, 0x68, 0x69] := by decide +kernel

/-! ### The accumulator and the codes -/

/-- 40_bitstream.md, vectors V-BIT-2, V-BIT-5 and V-BIT-6. -/
theorem test_need_and_bits :
    (BitStream.ofBytes [0xA5, 0x0F]).need 12 = .held ⟨0x0FA5, 16, [], 2⟩ ∧
    (BitStream.peekBits 12 ⟨0x0FA5, 16, [], 2⟩) = 0xFA5 ∧
    (BitStream.ofBytes [0x12, 0x34]).need 32 = .starved ⟨0x3412, 16, [], 2⟩ ∧
    BitStream.need 32 ⟨0x3412, 16, [0x56, 0x78], 0⟩ = .held ⟨0x78563412, 32, [], 2⟩ := by decide +kernel

/-- 40_bitstream.md V-BIT-1, V-BIT-3, R166. -/
theorem test_drop_and_align :
    BitStream.drop 1 ⟨0xA5, 8, [], 1⟩ = ⟨0x52, 7, [], 1⟩ ∧ BitStream.byteBits ⟨0x5, 3, [0xFF], 0⟩ = ⟨0, 0, [0xFF], 0⟩ ∧
    BitStream.initBits ⟨0x78563412, 32, [], 0⟩ = ⟨0, 0, [], 0⟩ := by decide +kernel

/-- 43_huffman.md R303's two examples. -/
theorem test_canonical_codes :
    (canonicalCode id [3, 3, 3, 3, 3, 2, 4, 4]).map (fun p => (p.2, p.1.len, p.1.code)) =
      [(0, 3, 0b010), (1, 3, 0b011), (2, 3, 0b100), (3, 3, 0b101), (4, 3, 0b110), (5, 2, 0b00), (6, 4, 0b1110),
       (7, 4, 0b1111)] ∧
    (canonicalCode id [2, 1, 3, 3]).map (fun p => (p.2, p.1.len, p.1.code)) =
      [(0, 2, 0b10), (1, 1, 0b0), (2, 3, 0b110), (3, 3, 0b111)] := by decide +kernel

/-- 43_huffman.md R301, R302: the examples. -/
theorem test_build_code_cases :
    buildClCode (List.replicate 19 0) = some [(⟨1, 0⟩, .invalid), (⟨1, 1⟩, .invalid)] ∧
    buildClCode [0, 1] = none ∧ buildLlCode [1, 1, 1] = none ∧ buildDistCode [2, 2] = none ∧
    buildDistCode [0, 1] = some [(⟨1, 0⟩, .dist 1), (⟨1, 1⟩, .invalid)] ∧
    (buildLlCode [1, 2, 2]).isSome = true := by decide +kernel

/-- 43_huffman.md R315's example, and R307's root widths. -/
theorem test_decode_peek :
    fixedLl.held ⟨0x89, 8, [], 0⟩ = some (⟨8, 0x91⟩, .lit 97) ∧ fixedLl.held ⟨0x09, 5, [], 0⟩ = none ∧
    rootWidth Config.lenBitsFix fixedLlLengths = 9 ∧ rootWidth 9 [7, 7] = 7 ∧ rootWidth 6 [2, 12] = 6 ∧
    rootWidth 7 [3, 3] = 3 := by decide +kernel

/-- 43_huffman.md R305's example: fixed `a` stands at table index 0x89 and at 0x89 + 256. -/
theorem test_fixed_table_entry :
    (fixedLlTable.entry 0x89, fixedLlTable.entry 0x189) = (⟨0, 8, 97⟩, ⟨0, 8, 97⟩) := by decide +kernel

/-- 43_huffman.md R306, R308: lengths 1, 2, 3, 3 in a table of root width 2: two codewords at their level, a link of
one more bit to offset 4, and its sub-table. -/
theorem test_linked_table :
    ((buildClCode [1, 2, 3, 3]).map (fun c => (makeTable ClEntry.packed 2 c).entries)) =
      some [⟨0, 1, 0⟩, ⟨0, 2, 1⟩, ⟨0, 1, 0⟩, ⟨1, 2, 4⟩, ⟨0, 1, 2⟩, ⟨0, 1, 3⟩] ∧
    (⟨1, 2, 4⟩ : TableEntry).isLink = true ∧ (⟨16, 5, 1⟩ : TableEntry).isLink = false ∧
    (⟨96, 7, 0⟩ : TableEntry).isLink = false := by decide +kernel

/-- 46_host.md R470, R471: Adler-32 of "hello" is R452's; CRC-32 of "hello, world\n" is S-1's. -/
theorem test_checksums :
    adler32Update 1 [0x68, 0x65, 0x6C, 0x6C, 0x6F] = 0x062C0215 ∧
    crc32Update 0 [0x68, 0x65, 0x6C, 0x6C, 0x6F, 0x2C, 0x20, 0x77, 0x6F, 0x72, 0x6C, 0x64, 0x0A] = 0xF4247453 := by
  decide +kernel

/-! ### Wrapper elements: the examples of 41_wrapper.md and 60_exceptions.md -/

theorem test_zlib_header :
    after (exec (.zlibHeader 0x78 0x9C) (call .head)) (fun t => (t.mode, t.fmt, t.check, t.wbits)) =
      some (.type, .zlib, 1, 15) ∧
    after (exec (.zlibHeader 0x78 0xBB) (call .head)) (·.mode) = some .dictid := by decide +kernel
theorem test_zlib_header_errors :
    after (exec (.zlibHeader 0x4B 0x04) (call .head)) (fun t => (t.mode, t.msg)) = some (.bad, .e1) ∧
    after (exec (.zlibHeader 0x79 0x94) (call .head)) (·.msg) = some .e2 ∧
    after (exec (.zlibHeader 0x88 0x98) (call .head)) (·.msg) = some .e3 ∧
    after (exec (.zlibHeader 0x78 0x9C) { call .head with wbits := 9 }) (·.msg) = some .e3 := by decide +kernel
theorem test_zlib_dictid :
    after (exec (.zlibDictid 0x0A1B2C3D) (call .dictid)) (fun t => (t.mode, t.check)) = some (.dict, 0x0A1B2C3D) := by
  decide +kernel
theorem test_zlib_adler32 :
    after (exec (.zlibAdler32 0x00620062) { call .check with check := 0x00620062 }) (·.mode) = some .length ∧
    after (exec (.zlibAdler32 0x62006200) { call .check with check := 0x00620062 }) (·.msg) = some .e17 := by decide +kernel
theorem test_gzip_magic :
    after (exec .gzipMagic { call .head with wbits := 0 }) (fun t => (t.mode, t.fmt, t.wbits, t.check)) =
      some (.flags, .gzip, 15, 1) := by decide +kernel
theorem test_gzip_cm_flg :
    after (exec (.gzipCmFlg 8 8) { call .flags with head := some {} }) (fun t => (t.mode, t.gflg)) =
      some (.time, 8) ∧
    after (exec (.gzipCmFlg 7 0x20) (call .flags)) (·.msg) = some .e2 ∧
    after (exec (.gzipCmFlg 8 0x20) (call .flags)) (·.msg) = some .e4 := by decide +kernel
theorem test_gzip_mtime :
    after (exec (.gzipMtime 0x12345678) { call .time with head := some {} })
      (fun t => (t.mode, t.head.map (·.time))) = some (.os, some 0x12345678) := by decide +kernel
theorem test_gzip_xfl_os :
    after (exec (.gzipXflOs 0 3) { call .os with head := some {} })
      (fun t => (t.mode, t.head.map (fun r => (r.xflags, r.os)))) = some (.exlen, some (0, 3)) := by decide +kernel
theorem test_gzip_xlen :
    after (exec (.gzipXlen 3) { call .exlen with head := some {} })
      (fun t => (t.mode, t.length, t.head.map (·.extraLen), t.head.bind (·.extra))) =
      some (.extra, 3, some 3, some []) := by decide +kernel
theorem test_gzip_extra :
    after (exec (.gzipExtra [0x41, 0x42]) { call .extra with length := 3, head := some { extraMax := 1 } })
      (fun t => (t.mode, t.length, t.head.bind (·.extra))) = some (.extra, 1, some [0x41]) := by decide +kernel
theorem test_gzip_name :
    after (exec (.gzipName [0x61, 0x2E, 0x74, 0x78, 0x74, 0x00]) { call .name with head := some {} })
      (fun t => (t.mode, t.head.bind (·.name))) = some (.comment, some [0x61, 0x2E, 0x74, 0x78, 0x74]) := by decide +kernel
theorem test_gzip_comment :
    after (exec (.gzipComment [0x63]) { call .comment with head := some {} })
      (fun t => (t.mode, t.head.bind (·.comment))) = some (.comment, some [0x63]) := by decide +kernel
theorem test_gzip_hcrc :
    after (exec (.gzipHcrc 0x3456) { call .hcrc with hcheck := 0x123456, gflg := 2, head := some {} })
      (fun t => (t.mode, t.check, t.head.map (fun r => (r.done, r.hcrc)))) = some (.type, 0, some (1, true)) ∧
    after (exec (.gzipHcrc 0) { call .hcrc with hcheck := 0x123456 }) (·.msg) = some .e5 := by decide +kernel
theorem test_gzip_crc32 :
    after (exec (.gzipCrc32 0xE8B7BE43) { call .check with fmt := .gzip, check := 0xE8B7BE43 }) (·.mode) =
      some .length := by decide +kernel
theorem test_gzip_isize :
    after (exec (.gzipIsize 5) { call .length with total := 3, outBuf := [1, 2] }) (·.mode) = some .done ∧
    after (exec (.gzipIsize 2) { call .length with total := 1 }) (·.msg) = some .e18 := by decide +kernel

/-! ### Block elements: the examples of 42_blocks.md -/

theorem test_block_stored :
    after (exec (.blockStored true) { call .typedo with src := ⟨0x4B, 8, [], 1⟩ })
      (fun t => (t.mode, t.last, t.src.hold, t.src.bits)) = some (.stored, true, 9, 5) := by decide +kernel
theorem test_block_fixed :
    after (exec (.blockFixed true) { call .typedo with src := ⟨0x4B, 8, [], 1⟩ })
      (fun t => (t.mode, t.last, t.src.hold, t.src.bits, t.lcode.length, t.dcode.length)) =
      some (.len_, true, 9, 5, 288, 32) := by decide +kernel
/-- A TREES call returns at LEN_ (R251, R449). -/
theorem test_block_fixed_trees :
    after (exec (.blockFixed false) { fed .typedo [2] 9 with src := ⟨2, 8, [], 1⟩, flush := .trees })
      (fun t => (t.mode, t.running, t.reply, t.src.bits)) =
      some (.len_, false, some ⟨.ok, 1, []⟩, 5) := by decide +kernel
theorem test_block_dynamic :
    after (exec (.blockDynamic false) { call .typedo with last := true, src := ⟨0b100, 8, [], 1⟩ })
      (fun t => (t.mode, t.last)) = some (.table, false) := by decide +kernel
theorem test_block_reserved :
    after (exec (.blockReserved true) { call .typedo with src := ⟨0b111, 8, [], 1⟩ })
      (fun t => (t.mode, t.msg, t.last, t.src.bits)) = some (.bad, .e6, true, 5) := by decide +kernel
theorem test_stored_len_nlen :
    after (exec (.storedLenNlen 5 0xFFFA) { call .stored with src := ⟨0xFFFA0005, 32, [], 4⟩ })
      (fun t => (t.mode, t.length, t.src.bits)) = some (.copy_, 5, 0) ∧
    after (exec (.storedLenNlen 5 0xFEFA) (call .stored)) (fun t => (t.mode, t.msg)) = some (.bad, .e7) := by decide +kernel
theorem test_stored_data :
    after (exec (.storedData [0x68, 0x65, 0x6C]) { fed .copy [] 100 with length := 5 })
      (fun t => (t.mode, t.outBuf, t.length, t.left)) = some (.copy, [0x68, 0x65, 0x6C], 2, 97) := by decide +kernel
/-- R254's example in one step: 3 of 5 bytes are there. -/
theorem test_step_stored_data :
    after (step { fed .copy [0x68, 0x65, 0x6C] 100 with length := 5 })
      (fun t => (t.outBuf, t.length, t.src.input, t.src.taken)) = some ([0x68, 0x65, 0x6C], 2, [], 3) := by decide +kernel
theorem test_dyn_counts :
    after (exec (.dynCounts 29 29 15) { call .table with ncnt := 7 })
      (fun t => (t.mode, t.nlen, t.ndist, t.ncode, t.ncnt)) = some (.lenlens, 286, 30, 19, 0) ∧
    after (exec (.dynCounts 30 0 0) (call .table)) (fun t => (t.mode, t.msg)) = some (.bad, .e8) := by decide +kernel
theorem test_dyn_cllen :
    after (exec (.dynCllen 2) { call .lenlens with ncnt := 3, ncode := 4 })
      (fun t => (t.ncnt, t.lens.getD 0 9, t.lens.getD 3 9)) = some (4, 2, 0) := by decide +kernel
/-- R256's example: lengths 2, 2, 2, 2 for the symbols 16, 17, 18, 0. -/
theorem test_cl_table :
    after (step { call .lenlens with
        ncnt := 4, ncode := 4, lens := 2 :: List.replicate 15 3 ++ [2, 2, 2] ++ List.replicate 301 0 })
      (fun t => (t.mode, t.clcode, t.ncnt)) = some (.codelens, clCode4, 0) := by decide +kernel
theorem test_cl_length :
    after (exec (.clLength ⟨3, 5⟩ 7) { call .codelens with ncnt := 1, nlen := 257, ndist := 1, src := ⟨0xFF, 8, [], 1⟩ })
      (fun t => (t.ncnt, t.lens.getD 1 0, t.src.bits)) = some (2, 7, 5) := by decide +kernel
theorem test_cl_repeat_prev :
    after (exec (.clRepeatPrev ⟨2, 1⟩ 1) { call .codelens with
        ncnt := 1, nlen := 257, ndist := 1, lens := 5 :: List.replicate 319 0, src := ⟨0xFF, 8, [], 1⟩ })
      (fun t => (t.ncnt, t.lens.take 6, t.src.bits)) = some (5, [5, 5, 5, 5, 5, 0], 4) ∧
    after (exec (.clRepeatPrev ⟨2, 1⟩ 1) { call .codelens with nlen := 257, ndist := 1 }) (·.msg) = some .e10 := by
  decide +kernel
theorem test_cl_zero_short :
    after (exec (.clZeroShort ⟨2, 2⟩ 7) { call .codelens with ncnt := 248, nlen := 257, ndist := 1 })
      (fun t => (t.mode, t.ncnt)) = some (.codelens, 258) ∧
    after (exec (.clZeroShort ⟨2, 2⟩ 7) { call .codelens with ncnt := 249, nlen := 257, ndist := 1 }) (·.msg) =
      some .e10 := by decide +kernel
/-- R257's example: symbol 18 with extra 0x7F is 138 zero lengths. -/
theorem test_cl_zero_long :
    after (exec (.clZeroLong ⟨2, 3⟩ 0x7F) { call .codelens with nlen := 257, ndist := 1 }) (·.ncnt) = some 138 := by
  decide +kernel

/-! ### Symbol elements -/

theorem test_literal :
    after (exec (.literal ⟨8, 0b10010001⟩ 97) (fed .len [] 1)) (fun t => (t.mode, t.outBuf, t.left, t.check)) =
      some (.len, [97], 0, 0x00620062) ∧
    after (exec (.literal ⟨8, 0b10010001⟩ 97) (fed .len [] 0)) (fun t => (t.mode, t.running, t.length)) =
      some (.lit, false, 97) := by decide +kernel
theorem test_end_of_block : after (exec (.endOfBlock ⟨7, 0⟩) (call .len)) (·.mode) = some .type := by decide +kernel
theorem test_invalid_symbols :
    after (exec (.llInvalid ⟨8, 0b11000110⟩) (call .len)) (fun t => (t.mode, t.msg)) = some (.bad, .e14) ∧
    after (exec (.distInvalid ⟨5, 30⟩) (call .dist)) (fun t => (t.mode, t.msg)) = some (.bad, .e15) := by decide +kernel

/-- R121: each length symbol with its largest extra value, and the length that is (symbol 284 with 30). -/
def lengthValues : List (Instr × Nat) :=
  [(.length257 ⟨7, 0⟩, 3),
   (.length258 ⟨7, 0⟩, 4),
   (.length259 ⟨7, 0⟩, 5),
   (.length260 ⟨7, 0⟩, 6),
   (.length261 ⟨7, 0⟩, 7),
   (.length262 ⟨7, 0⟩, 8),
   (.length263 ⟨7, 0⟩, 9),
   (.length264 ⟨7, 0⟩, 10),
   (.length265 ⟨7, 0⟩ 1, 12),
   (.length266 ⟨7, 0⟩ 1, 14),
   (.length267 ⟨7, 0⟩ 1, 16),
   (.length268 ⟨7, 0⟩ 1, 18),
   (.length269 ⟨7, 0⟩ 3, 22),
   (.length270 ⟨7, 0⟩ 3, 26),
   (.length271 ⟨7, 0⟩ 3, 30)]

/-- The other half. -/
def lengthValuesHigh : List (Instr × Nat) :=
  [(.length272 ⟨7, 0⟩ 3, 34),
   (.length273 ⟨7, 0⟩ 7, 42),
   (.length274 ⟨7, 0⟩ 7, 50),
   (.length275 ⟨7, 0⟩ 7, 58),
   (.length276 ⟨7, 0⟩ 7, 66),
   (.length277 ⟨7, 0⟩ 15, 82),
   (.length278 ⟨7, 0⟩ 15, 98),
   (.length279 ⟨7, 0⟩ 15, 114),
   (.length280 ⟨8, 0⟩ 15, 130),
   (.length281 ⟨8, 0⟩ 31, 162),
   (.length282 ⟨8, 0⟩ 31, 194),
   (.length283 ⟨8, 0⟩ 31, 226),
   (.length284 ⟨8, 0⟩ 30, 257),
   (.length285 ⟨8, 0⟩, 258)]

theorem test_length_values :
    (lengthValues ++ lengthValuesHigh).all (fun p => after (exec p.1 (call .len)) (fun t => (t.length, t.mode)) == some (p.2, .dist)) =
      true := by decide +kernel

/-- R123: each distance symbol with its largest extra value, and the distance that is. -/
def distanceValues : List (Instr × Nat) :=
  [(.distance0 ⟨5, 0⟩, 1),
   (.distance1 ⟨5, 1⟩, 2),
   (.distance2 ⟨5, 2⟩, 3),
   (.distance3 ⟨5, 3⟩, 4),
   (.distance4 ⟨5, 4⟩ 1, 6),
   (.distance5 ⟨5, 5⟩ 1, 8),
   (.distance6 ⟨5, 6⟩ 3, 12),
   (.distance7 ⟨5, 7⟩ 3, 16),
   (.distance8 ⟨5, 8⟩ 7, 24),
   (.distance9 ⟨5, 9⟩ 7, 32),
   (.distance10 ⟨5, 10⟩ 15, 48),
   (.distance11 ⟨5, 11⟩ 15, 64),
   (.distance12 ⟨5, 12⟩ 31, 96),
   (.distance13 ⟨5, 13⟩ 31, 128),
   (.distance14 ⟨5, 14⟩ 63, 192)]

/-- The other half. -/
def distanceValuesHigh : List (Instr × Nat) :=
  [(.distance15 ⟨5, 15⟩ 63, 256),
   (.distance16 ⟨5, 16⟩ 127, 384),
   (.distance17 ⟨5, 17⟩ 127, 512),
   (.distance18 ⟨5, 18⟩ 255, 768),
   (.distance19 ⟨5, 19⟩ 255, 1024),
   (.distance20 ⟨5, 20⟩ 511, 1536),
   (.distance21 ⟨5, 21⟩ 511, 2048),
   (.distance22 ⟨5, 22⟩ 1023, 3072),
   (.distance23 ⟨5, 23⟩ 1023, 4096),
   (.distance24 ⟨5, 24⟩ 2047, 6144),
   (.distance25 ⟨5, 25⟩ 2047, 8192),
   (.distance26 ⟨5, 26⟩ 4095, 12288),
   (.distance27 ⟨5, 27⟩ 4095, 16384),
   (.distance28 ⟨5, 28⟩ 8191, 24576),
   (.distance29 ⟨5, 29⟩ 8191, 32768)]

theorem test_distance_values :
    (distanceValues ++ distanceValuesHigh).all (fun p =>
      after (exec p.1 { fed .dist [] 9 with length := 3 }) (fun t => (t.offset, t.msg)) == some (p.2, .e16)) =
      true := by decide +kernel

/-- 45_window.md R408's example: after `ab`, a match of length 5 at distance 2 writes `ababa`. -/
theorem test_match_with_overlap :
    after (exec (.distance1 ⟨5, 1⟩) { fed .dist [] 100 with length := 5, outBuf := [0x61, 0x62] })
      (fun t => (t.mode, t.outBuf, t.left)) = some (.len, [0x61, 0x62, 0x61, 0x62, 0x61, 0x62, 0x61], 95) := by decide +kernel
/-- 45_window.md R406 and R409 on a window of 256: a match that reads across the wrap point, then from the output. -/
theorem test_match_across_the_window :
    after (exec (.distance2 ⟨5, 2⟩) { fed .dist [] 4 with
        length := 6, win := ⟨[(0, 7), (1, 8), (255, 6)], 256, 256, 2⟩ })
      (fun t => (t.mode, t.outBuf, t.length)) = some (.matched, [6, 7, 8, 6], 2) := by decide +kernel
/-- 45_window.md R403's example. -/
theorem test_window_update :
    (fun w => (w.wnext, w.whave, w.ram))
      (Window.append ⟨[], 256, 256, 250⟩ [1, 2, 3, 4, 5, 6, 7, 8, 9, 10]) =
      (4, 256, [(0, 7), (1, 8), (2, 9), (3, 10), (250, 1), (251, 2), (252, 3), (253, 4), (254, 5), (255, 6)]) := by
  decide +kernel
/-- Writing the unlisted byte takes the entry out, so equal memories are equal lists. -/
theorem test_memory_canonical :
    Memory.write [(3, 1), (4, 2), (9, 3)] 3 [0, 5] = [(4, 5), (9, 3)] ∧ Memory.read [(4, 5)] 3 = 0 := by decide +kernel
/-- 44_symbols.md R350 to R354 in one step: a length symbol whose extra bit is not there leaves LENEXT. -/
theorem test_step_length_starved :
    after (step { call .len with lcode := codeLen, src := ⟨0, 1, [], 0⟩ })
      (fun t => (t.mode, t.running, t.length, t.extra, t.src.bits)) = some (.lenext, false, 11, 1, 0) := by decide +kernel
/-- 44_symbols.md R359: 21 bits held become 5, and two bytes go back. -/
theorem test_trim :
    trim ⟨0x15ABCD, 21, [0xEE], 3⟩ = ⟨0x0D, 5, [0x5E, 0xAD, 0xEE], 1⟩ := by decide +kernel
/-- The fast path on a code of two codewords: `a`, then the end of the block, the rest of the input given back. -/
theorem test_fast_path :
    (fun t => (t.mode, t.outBuf, t.src))
      (fastPath { fed .len [0b10, 1, 2, 3, 4, 5, 6, 7] 259 with lcode := code2, dcode := dist2 }) =
      (.type, [97], ⟨0, 6, [1, 2, 3, 4, 5, 6, 7], 1⟩) := by decide +kernel

/-! ### Host commands: the examples of 46_host.md and 70_reset_and_hazards.md -/

theorem test_init :
    after (exec (.init (-9)) State.reset) (fun t => (t.wrap, t.wbits, t.check)) = some (.none, 9, 0) ∧
    after (exec (.init 31) State.reset) (fun t => (t.wrap, t.wbits, t.mode, t.check)) = some (.gzip, 15, .head, 0) ∧
    after (exec (.init 47) State.reset) (fun t => (t.wrap, t.wbits, t.check)) = some (.auto, 15, 1) := by decide +kernel
theorem test_init_refused :
    ([-16, -7, 1, 7, 17, 23, 33, 39, 48] : List Int).all (fun w =>
      after (exec (.init w) State.reset) (fun t => t.reply.map (·.status)) == some (some .streamError)) = true := by
  decide +kernel
theorem test_reset :
    after (exec (.reset true) { State.reset with mode := .done, win := ⟨[(0, 1)], 32768, 300, 300⟩ })
      (fun t => (t.mode, t.win.whave)) = some (.head, 300) ∧
    after (exec (.reset false) { State.reset with mode := .bad, msg := .e7, win := ⟨[], 32768, 300, 300⟩ })
      (fun t => (t.mode, t.msg, t.win.wsize)) = some (.head, .e0, 0) := by decide +kernel
theorem test_inflate :
    after (exec (.inflate [1, 2] 9 4) { State.reset with mode := .type })
      (fun t => (t.running, t.mode, t.flush, t.left, t.src.input)) = some (true, .typedo, .finish, 9, [1, 2]) ∧
    after (exec (.inflate [] 0 1) State.reset) (fun t => (t.running, t.reply)) =
      some (false, some ⟨.streamError, 0, []⟩) := by decide +kernel
/-- 46_host.md R452's example: `hellp` is refused with no change of mode, `hello` is loaded. -/
theorem test_set_dictionary :
    after (exec (.setDictionary [0x68, 0x65, 0x6C, 0x6C, 0x70]) { State.reset with mode := .dict, check := 0x062C0215 })
      (fun t => (t.mode, t.havedict, t.reply.map (·.status))) = some (.dict, false, some .dataError) ∧
    after (exec (.setDictionary [0x68, 0x65, 0x6C, 0x6C, 0x6F]) { State.reset with mode := .dict, check := 0x062C0215 })
      (fun t => (t.havedict, t.win.whave, t.win.wsize, t.reply.map (·.status))) =
      some (true, 5, 32768, some .ok) := by decide +kernel
theorem test_get_header :
    after (exec (.getHeader { done := 1 }) State.reset) (fun t => t.head.map (·.done)) = some (some 0) ∧
    after (exec (.getHeader {}) { State.reset with wrap := .zlib }) (fun t => (t.head, t.reply.map (·.status))) =
      some (none, some .streamError) := by decide +kernel
theorem test_teardown :
    after (exec .teardown State.reset) (fun t => (t.valid, t.reply.map (·.status))) = some (false, some .ok) ∧
    after (exec .teardown { State.reset with valid := false }) (fun t => t.reply.map (·.status)) =
      some (some .streamError) := by decide +kernel
/-- S-2's first call, its last step: one byte of a header is kept and the call returns OK. -/
theorem test_step_suspends :
    after (step (fed .head [0x78] 1)) (fun t => (t.mode, t.src, t.totalIn, t.reply)) =
      some (.head, ⟨0x78, 8, [], 0⟩, 1, some ⟨.ok, 1, []⟩) := by decide +kernel
/-- 46_host.md R457, R485: a call that does nothing is BUF_ERROR; BAD is DATA_ERROR. -/
theorem test_step_statuses :
    after (step (call .len)) (fun t => t.reply.map (·.status)) = some (some .bufError) ∧
    after (step { call .bad with msg := .e1 }) (fun t => t.reply.map (·.status)) = some (some .dataError) := by decide +kernel

/-! ### Witnesses: for each statement with hypotheses, inputs that meet them -/

theorem witness_NeedKeepsTheStream :
    ((⟨1, 1, [0xFF], 0⟩ : BitStream).wf ∧ 9 ≤ 25 ∧ 9 ≤ 1 + 8 * [(0xFF : Byte)].length ∧ 1 + 8 * [(0xFF : Byte)].length < 10) ∧
    ((⟨0, 0, [1, 2, 3, 4], 0⟩ : BitStream).wf ∧ 32 ≤ 0 + 8 * [(1 : Byte), 2, 3, 4].length) ∧
    (⟨0, 0, [1, 2, 3], 0⟩ : BitStream).wf ∧ 0 + 8 * [(1 : Byte), 2, 3].length < 32 := by
  unfold BitStream.wf; decide +kernel

theorem witness_BitsAndDropTakeTheOldestBits :
    (⟨0xFFFFFFFF, 32, [], 0⟩ : BitStream).wf ∧ 32 ≤ (⟨0xFFFFFFFF, 32, [], 0⟩ : BitStream).bits ∧
    (⟨5, 3, [1], 0⟩ : BitStream).wf ∧ 0 ≤ (⟨5, 3, [1], 0⟩ : BitStream).bits := by
  unfold BitStream.wf; decide +kernel

theorem witness_DecodingResumesExactly :
    decode .time { BitStream.ofBytes [] with input := [0x12, 0x34] } = .starved none ⟨0x3412, 16, [], 2⟩ ∧
    decode (.litLen fixedLl) { BitStream.ofBytes [] with input := [] } = .starved none ⟨0, 0, [], 0⟩ := by
  decide +kernel

theorem witness_SuspensionKeepsEveryBit :
    (∃ s t q, s.src.wf ∧ s.running = true ∧ action s = .read .time ∧ decode .time s.src = .starved none q ∧
      step s = .next t) ∧
    (∃ s t q, s.src.wf ∧ s.running = true ∧ action s = .read (.litLen codeLen) ∧
      decode (.litLen codeLen) s.src = .starved (some (.length 8)) q ∧ step s = .next t) ∧
    (∃ s t q, s.src.wf ∧ s.running = true ∧ action s = .read (.distance dist2) ∧
      decode (.distance dist2) s.src = .starved (some (.distance 4)) q ∧ step s = .next t) ∧
    (∃ s t q, s.src.wf ∧ s.running = true ∧ action s = .read .storedLen ∧ decode .storedLen s.src = .starved none q ∧
      step s = .next t ∧ q.stream ≠ s.src.stream) :=
  ⟨⟨fed .time [1, 2, 3] 0, _, _, ⟨by decide +kernel, by decide +kernel⟩, rfl, rfl, rfl, rfl⟩,
   ⟨{ call .len with lcode := codeLen, src := ⟨0, 1, [], 0⟩ }, _, _, ⟨by decide +kernel, by decide +kernel⟩, rfl, rfl, rfl, rfl⟩,
   ⟨{ call .dist with dcode := dist2, src := ⟨0, 1, [], 0⟩ }, _, _, ⟨by decide +kernel, by decide +kernel⟩, rfl, rfl, rfl, rfl⟩,
   ⟨{ call .stored with src := ⟨5, 5, [7], 0⟩ }, _, _, ⟨by decide +kernel, by decide +kernel⟩, rfl, rfl, rfl, rfl,
     by decide +kernel⟩⟩

theorem witness_BuildCodeAcceptsExactlyTheseLengths :
    (∀ l ∈ [0, 0], l = 0) ∧
    ((∀ l ∈ [1, 1, 15], l ≤ 15) ∧ 2 ^ 15 < kraftSum [1, 1, 15]) ∧
    (0 < kraftSum [1] ∧ kraftSum [1] < 2 ^ 15 ∧ ∀ l ∈ [1], l ≤ 1) ∧
    (0 < kraftSum [1, 2, 3, 15] ∧ kraftSum [1, 2, 3, 15] < 2 ^ 15 ∧ ∃ l ∈ [1, 2, 3, 15], 1 < l) ∧
    ((∀ l ∈ [1, 2, 2], l ≤ 15) ∧ kraftSum [1, 2, 2] = 2 ^ 15) := by decide +kernel

theorem witness_CanonicalCodewordsInSymbolOrder :
    (∀ l ∈ [15, 0, 1], l ≤ 15) ∧ [15, 0, 1][0]? = some 15 ∧ [15, 0, 1][2]? = some 1 := by decide +kernel

theorem witness_BuiltCodes :
    (∀ l ∈ [0], l ≤ 15) ∧ (buildCode .codes id 0 [0]).isSome = true ∧ (buildCode .dists id 0 [0, 1]).isSome = true ∧
    (∀ l ∈ [1, 2, 2], l ≤ 15) ∧ (buildCode .lens id 0 [1, 2, 2]).isSome = true := by decide +kernel

theorem code2_prefixFree : code2.prefixFree := by simp [Code.prefixFree, code2]

theorem witness_DecodePeekReadsTheCodewordAhead :
    code2.reads ⟨1, 1⟩ .eob ∧ (⟨1, 1⟩ : Codeword).wellFormed = true ∧ (BitStream.ofBytes [1]).wf ∧
    (BitStream.ofBytes [1]).stream = (⟨1, 1⟩ : Codeword).bits ++ List.replicate 7 false :=
  ⟨⟨by decide +kernel, code2_prefixFree⟩, by decide +kernel, ⟨by decide +kernel, by decide +kernel⟩, by decide +kernel⟩

theorem witness_TableDecodeConforms :
    (∀ l ∈ [1, 2, 3, 3], l ≤ 15) ∧ (buildCode .lens llEntry .invalid [1, 2, 3, 3]).isSome = true ∧
    (buildCode .dists distEntry .invalid [1, 2, 3, 3]).isSome = true ∧
    (buildCode .codes clEntry .invalid [1, 2, 3, 3]).isSome = true ∧ (1 ≤ 1 ∧ 1 ≤ 15) ∧ (1 ≤ 15 ∧ 15 ≤ 15) ∧
    (BitStream.ofBytes [7]).wf := by
  unfold BitStream.wf; decide +kernel

theorem witness_DecodeEncodeRoundTrip :
    ((Instr.gzipName [0x61, 0]).wellFormed = true ∧ Context.admits .name (.gzipName [0x61, 0]) [] ∧
      (BitStream.ofBytes [0x61, 0]).wf ∧ (BitStream.ofBytes [0x61, 0]).bits = 0 ∧
      (BitStream.ofBytes [0x61, 0]).stream = byteStream [0x61, 0] ++ []) ∧
    ((Instr.literal ⟨1, 0⟩ 97).wellFormed = true ∧ Context.admits (.litLen code2) (.literal ⟨1, 0⟩ 97) [] ∧
      (⟨0, 1, [], 0⟩ : BitStream).wf ∧ (⟨0, 1, [], 0⟩ : BitStream).stream = (⟨1, 0⟩ : Codeword).bits ++ []) ∧
    (Instr.init 15).wellFormed = true ∧
    (⟨5, 5, [0, 1, 2, 3], 0⟩ : BitStream).wf ∧
    encode (.storedLenNlen 0x100 0x302) = .stream (byteStream [0, 1, 2, 3]) ∧
    (⟨5, 5, [0, 1, 2, 3], 0⟩ : BitStream).stream.drop (5 % 8) = byteStream [0, 1, 2, 3] ++ [] :=
  ⟨⟨by decide +kernel, ⟨_, rfl, .inr rfl⟩, ⟨by decide +kernel, by decide +kernel⟩, rfl, by decide +kernel⟩,
   ⟨by decide +kernel, .inl ⟨_, _, rfl, by decide +kernel, code2_prefixFree⟩, ⟨by decide +kernel, by decide +kernel⟩, by decide +kernel⟩,
   by decide +kernel, ⟨by decide +kernel, by decide +kernel⟩, rfl, by decide +kernel⟩

theorem witness_EveryLengthAndDistanceHasOneSymbol :
    (3 ≤ 3 ∧ 3 ≤ 258) ∧ (3 ≤ 258 ∧ 258 ≤ 258) ∧ (1 ≤ 1 ∧ 1 ≤ 32768) ∧ (1 ≤ 32768 ∧ 32768 ≤ 32768) ∧
    0 < 2 ^ lengthExtra 28 ∧ 31 < 2 ^ lengthExtra 27 ∧ 8191 < 2 ^ distanceExtra 29 := by decide +kernel

/-- Each clause: E1, E2, E3 by CINFO 8, E3 by `wbits` 14 < 15, accepted with `wbits` 15, and `wbits` 0. -/
theorem witness_ZlibHeaderResult :
    (0x4B * 256 + 0x04) % 31 ≠ 0 ∧
    ((call .head).wrap ≠ .gzip ∧ (0x79 * 256 + 0x94) % 31 = 0 ∧ 0x79 % 16 ≠ 8) ∧
    ((0x88 * 256 + 0x98) % 31 = 0 ∧ 0x88 % 16 = 8 ∧ 15 < 0x88 / 16 + 8) ∧
    ((0x78 * 256 + 0x9C) % 31 = 0 ∧ 0x78 % 16 = 8 ∧ 0x78 / 16 + 8 ≤ 15 ∧ 14 < 0x78 / 16 + 8) ∧
    (call .head).wbits = 0x78 / 16 + 8 := by decide +kernel

theorem witness_GzipFlagsResult :
    (7 : Byte) ≠ 8 ∧ (0x20 : Byte).toNat / 32 ≠ 0 ∧ (0x1F : Byte).toNat / 32 = 0 := by decide +kernel

theorem witness_ByteRunsMayBeSplit :
    ∃ t u v w : State,
      (([0x41] : List Byte).length < { call .extra with length := 2 }.length ∧
        exec (.gzipExtra [0x41]) { call .extra with length := 2 } = .next t) ∧
      ((0 : Byte) ∉ [(0x41 : Byte)] ∧ exec (.gzipName [0x41]) (call .name) = .next u) ∧
      exec (.gzipComment [0x41]) (call .comment) = .next v ∧ exec (.storedData [0x41]) (fed .copy [] 9) = .next w :=
  ⟨_, _, _, _, ⟨by decide +kernel, rfl⟩, ⟨by decide +kernel, rfl⟩, rfl, rfl⟩

/-- Each clause, with a total that wraps for ISIZE. -/
theorem witness_DictidHcrcAndTrailerResults :
    ((1 : U16) ≠ (call .hcrc).hcheck.setWidth 16 ∧ (0 : U16) = (call .hcrc).hcheck.setWidth 16) ∧
    ((0 : U32) ≠ (call .check).check ∧ (1 : U32) = (call .check).check) ∧
    ((0 : U32).toNat = (((0xFFFFFFFF : U32).toNat + [(7 : Byte)].length) % 2 ^ 32)) ∧
    (1 : U32).toNat ≠ ((call .length).total.toNat + (call .length).outBuf.length) % 2 ^ 32 := by decide +kernel

theorem witness_TreesOrNot : (call .typedo).flush ≠ .trees ∧ { call .typedo with flush := .trees }.flush = .trees ∧
    (0 : U16) = 0xFFFF ^^^ 0xFFFF ∧ (5 : U16) = 0xFFFA ^^^ 0xFFFF ∧ (5 : U16) ≠ 0xFEFA ^^^ 0xFFFF := by decide +kernel

theorem witness_DynamicCountsResult :
    (29 < (30 : BitVec 5).toNat) ∧ ((29 : BitVec 5).toNat ≤ 29 ∧ (0 : BitVec 5).toNat ≤ 29) := by decide +kernel

/-- Code lengths being read, `n` of 258 so far. -/
def lengthsRead (n : Nat) : State := { call .codelens with ncnt := n, nlen := 257, ndist := 1 }

/-- Each clause, at the last place that fits and the first that does not. -/
theorem witness_CodeLengthResults :
    (∀ n ∈ [0, 120, 257], (lengthsRead n).nlen + (lengthsRead n).ndist ≤ (lengthsRead n).lens.length) ∧
    (lengthsRead 257).ncnt + 1 ≤ 258 ∧ (lengthsRead 0).ncnt = 0 ∧ (lengthsRead 252).ncnt ≠ 0 ∧
    (lengthsRead 252).ncnt + (3 + (3 : BitVec 2).toNat) ≤ (lengthsRead 252).nlen + (lengthsRead 252).ndist ∧
    ¬ (lengthsRead 253).ncnt + (3 + (3 : BitVec 2).toNat) ≤ (lengthsRead 253).nlen + (lengthsRead 253).ndist ∧
    (lengthsRead 248).ncnt + (3 + (7 : BitVec 3).toNat) ≤ (lengthsRead 248).nlen + (lengthsRead 248).ndist ∧
    ¬ (lengthsRead 249).ncnt + (3 + (7 : BitVec 3).toNat) ≤ (lengthsRead 249).nlen + (lengthsRead 249).ndist ∧
    (lengthsRead 120).ncnt + (11 + (127 : BitVec 7).toNat) ≤ (lengthsRead 120).nlen + (lengthsRead 120).ndist ∧
    ¬ (lengthsRead 121).ncnt + (11 + (127 : BitVec 7).toNat) ≤ (lengthsRead 121).nlen + (lengthsRead 121).ndist := by
  decide +kernel

/-- The code-length lengths are read: one of length 1, or none. -/
def clRead (l : BitVec 4) : State := { call .lenlens with ncnt := 19, ncode := 19, lens := l :: List.replicate 319 0 }

/-- The code lengths are read: literal/length `first` for symbol 0 and `eob` for 256, distance `d`. -/
def allRead (first eob d : BitVec 4) : State :=
  { call .codelens with
    ncnt := 258, nlen := 257, ndist := 1
    lens := first :: List.replicate 255 0 ++ [eob, d] ++ List.replicate 62 0 }

/-- What R258 builds the two codes from. -/
def slices (s : State) : List Nat × List Nat :=
  ((s.lens.take s.nlen).map BitVec.toNat, ((s.lens.drop s.nlen).take s.ndist).map BitVec.toNat)

/-- Each clause: the code-length code refused and built; E11, E12, E13, and both codes built. -/
theorem witness_TableBuildResults :
    ((clRead 1).running = true ∧ (clRead 1).ncode ≤ (clRead 1).ncnt ∧ (clRead 1).ncnt ≤ 19 ∧
      buildClCode (((clRead 1).lens.take 19).map BitVec.toNat) = none) ∧
    (buildClCode (((clRead 0).lens.take 19).map BitVec.toNat)).isSome = true ∧
    ((allRead 1 0 1).nlen + (allRead 1 0 1).ndist ≤ (allRead 1 0 1).ncnt ∧ (allRead 1 0 1).lens.getD 256 0 = 0) ∧
    ((allRead 2 1 1).lens.getD 256 0 ≠ 0 ∧ buildLlCode (slices (allRead 2 1 1)).1 = none) ∧
    ((buildLlCode (slices (allRead 1 1 2)).1).isSome = true ∧ buildDistCode (slices (allRead 1 1 2)).2 = none) ∧
    ((buildLlCode (slices (allRead 0 1 1)).1).isSome = true ∧
      (buildDistCode (slices (allRead 0 1 1)).2).isSome = true) := by decide +kernel

theorem witness_LiteralAndInvalidResults : 0 < (fed .len [] 1).left ∧ (fed .len [] 0).left = 0 := by decide +kernel

theorem witness_MatchCopiesWithThePeriod :
    (1 ≤ 1 ∧ 1 ≤ reach { fed .matched [] 9 with outBuf := [0x78] }) ∧
    (1 ≤ 32768 ∧ 32768 ≤ reach { fed .matched [] 9 with win := ⟨[], 32768, 32768, 0⟩ }) ∧
    (0 < (fed .matched [] 1).left ∧ 1 ≤ { fed .matched [] 1 with offset := 1 }.offset) := by decide +kernel

theorem witness_MatchStops :
    (fed .matched [] 0).left = 0 ∧ 0 < (fed .matched [] 1).left ∧
    (fed .matched [] 1).outBuf.length + (fed .matched [] 1).win.whave < { fed .matched [] 1 with offset := 1 }.offset := by
  decide +kernel

/-- The three cases of 44_symbols.md R360: from the output, from the window, from both. -/
theorem witness_CopyCasesAgree :
    (1 ≤ 2 ∧ 2 ≤ reach { fed .matched [] 9 with outBuf := [1, 2] }) ∧
    (1 ≤ 5 ∧ 5 ≤ reach { fed .matched [] 9 with outBuf := [1, 2], win := ⟨[], 256, 3, 3⟩ } ∧ 3 ≤ 5 - 2 ∧ ¬ 4 ≤ 5 - 2) := by
  decide +kernel

theorem witness_Window :
    ((250 < 256 ∧ 256 ≤ 256) ∧ (0 < 256 ∧ 0 ≤ 256 ∧ (0 < 256 → 0 = 0))) ∧
    (¬ (Window.mk [] 256 256 250).writes [1, 2, 3, 4, 5, 6, 7] 1 ∧ (Window.mk [] 256 256 250).writes [1, 2, 3, 4, 5, 6, 7] 0) ∧
    (1 ≤ 256 ∧ 256 ≤ ((Window.mk [] 256 256 250).append [1]).whave) ∧ 1 ≤ ((Window.mk [] 256 0 0).append [1]).whave := by
  refine ⟨by decide +kernel, ⟨?_, 6, by decide +kernel, by decide +kernel⟩, by decide +kernel, by decide +kernel⟩
  rintro ⟨k, hk, h⟩
  have : k < 7 := hk
  interval_cases k <;> exact absurd h (by decide +kernel)

/-- The clauses without a failing draw; of the two clauses on a draw, whichever value the free value has meets one. -/
theorem witness_LeaveResult :
    (call .len).outBuf = [] ∧
    ({ call .len with outBuf := [1] }.outBuf ≠ [] ∧ (call .len).allocMayFail = false) ∧
    ((call .len).win.wsize = 0 ∧ { call .len with allocMayFail := true }.allocMayFail = true ∧
      (Config.allocFails (call .len).allocDraws = true ∨ ¬ Config.allocFails (call .len).allocDraws = true)) :=
  ⟨rfl, ⟨by decide +kernel, rfl⟩, rfl, rfl, Classical.em _⟩

theorem witness_MemUnreachableByDefault :
    ∃ t, (call .len).allocMayFail = false ∧ (call .len).mode ≠ .mem ∧ step (call .len) = .next t :=
  ⟨_, rfl, by decide +kernel, rfl⟩

theorem witness_InitResult :
    (8 ≤ 8 ∧ 8 ≤ 15) ∧ (8 ≤ 15 ∧ 15 ≤ 15) ∧
    (∀ w ∈ ([-16, -7, -1, 1, 7, 17, 23, 33, 39, 48] : List Int), ¬(-15 ≤ w ∧ w ≤ -8) ∧ w ≠ 0 ∧ ¬(8 ≤ w ∧ w ≤ 16) ∧
      ¬(24 ≤ w ∧ w ≤ 32) ∧ ¬(40 ≤ w ∧ w ≤ 47)) := by decide +kernel

theorem witness_ValidCommands :
    State.reset.valid = true ∧ ((6 : Byte), Flush.trees) ∈ [((0 : Byte), Flush.noFlush), (2, .syncFlush), (4, .finish),
      (5, .block), (6, .trees)] := by decide +kernel

theorem witness_DictionaryHeaderTeardownResults :
    { State.reset with mode := .dict }.valid = true ∧ adler32Update 1 [] = State.reset.check ∧
    adler32Update 1 [1] ≠ State.reset.check ∧ State.reset.allocMayFail = false ∧ State.reset.win.wsize = 0 ∧
    State.reset.mode = .head ∧ State.reset.wrap = .auto := by decide +kernel

theorem witness_ArgumentErrorsChangeNothing :
    { State.reset with valid := false }.valid = false ∧ (1 : Byte) ∉ [(0 : Byte), 2, 4, 5, 6] ∧
    (3 : Byte) ∉ [(0 : Byte), 2, 4, 5, 6] ∧ (7 : Byte) ∉ [(0 : Byte), 2, 4, 5, 6] ∧ State.reset.mode ≠ .dict ∧
    { State.reset with wrap := .zlib }.wrap = .zlib := by decide +kernel

theorem reset_callOk (m : Mode) : CallOk { State.reset with mode := m } := ⟨fun _ => ⟨rfl, rfl, rfl, rfl⟩, fun _ => rfl⟩

theorem witness_TerminalCallResult (m : Mode) :
    CallOk { State.reset with mode := m } ∧ { State.reset with mode := m }.running = false ∧
    { State.reset with mode := m }.valid = true ∧ flushOfCode 5 = some .block ∧
    ∃ u, exec (.inflate [9] 9 5) { State.reset with mode := m } = .next u :=
  ⟨reset_callOk m, rfl, rfl, rfl, _, rfl⟩

theorem witness_TerminalModesAreLeftOnlyByReset :
    (∃ t, step (call .done) = .next t) ∧ (∃ t, step (call .bad) = .next t) ∧ (∃ t, step (call .mem) = .next t) ∧
    ∃ t, step { State.reset with mode := .bad, commands := [.reset true] } = .next t :=
  ⟨⟨_, rfl⟩, ⟨_, rfl⟩, ⟨_, rfl⟩, ⟨_, rfl⟩⟩

/-- The hypotheses of the clauses of ModesThatReadNothingMove that ask for more than a mode. -/
theorem witness_ModesThatReadNothingMove :
    (call .exlen).running = true ∧ { call .head with wrap := .none }.wrap = .none ∧
    (∀ b ∈ [1, 2, 3, 4], (call .exlen).gflg.getLsbD b = false) ∧ (call .extra).length = 0 ∧
    (call .dict).havedict = false ∧ { call .dict with havedict := true }.havedict = true ∧
    { call .type with flush := .block }.flush = .block ∧ (call .type).flush ≠ .block ∧ (call .type).flush ≠ .trees ∧
    { call .typedo with last := true }.last = true ∧ { call .copy with length := 1 }.length ≠ 0 ∧ (call .copy).left = 0 ∧
    0 < (fed .lit [] 1).left ∧ (fed .lenext [1] 0).src.need (fed .lenext [1] 0).extra = .held ⟨0, 0, [1], 0⟩ ∧
    { fed .distext [1] 0 with extra := 13 }.src.need 13 = .starved ⟨1, 8, [], 1⟩ ∧
    (fed .distext [1] 0).offset + 0 ≤ Config.dMax ∧
    { fed .distext [1] 0 with offset := 32769 }.src.need (fed .distext [1] 0).extra = .held ⟨0, 0, [1], 0⟩ ∧
    Config.dMax < { fed .distext [1] 0 with offset := 32769 }.offset + 0 % 2 ^ 0 ∧ (call .length).fmt ≠ .gzip := by decide +kernel

/-- Whether a stream starts with a whole element. -/
def fetches (ctx : Context) (s : State) : Bool := (instrOf (decode ctx s.src)).isSome

/-- For each clause of StepRunsTheDecodedInstruction, a state of its mode whose input is an element. -/
theorem witness_StepRunsTheDecodedInstruction :
    (fetches (.head .auto) (fed .head [0x1F, 0x8B] 0) ∧ (fed .head [] 0).wrap ≠ .none) ∧
    fetches .flags (fed .flags [8, 0] 0) ∧ fetches .time (fed .time [1, 2, 3, 4] 0) ∧ fetches .os (fed .os [0, 3] 0) ∧
    (fetches .xlen (fed .exlen [3, 0] 0) ∧ (0xFF : Byte).getLsbD 2 = true) ∧ fetches (.extra 1) (fed .extra [7] 0) ∧
    fetches .name (fed .name [0] 0) ∧ fetches .comment (fed .comment [0] 0) ∧ fetches .hcrc (fed .hcrc [1, 2] 0) ∧
    fetches .dictid (fed .dictid [1, 2, 3, 4] 0) ∧
    (fetches .blockHeader (fed .typedo [3] 0) ∧ (fed .typedo [3] 0).last = false) ∧
    fetches .storedLen (fed .stored [0, 0, 0xFF, 0xFF] 0) ∧ fetches (.storedData (min 1 1)) (fed .copy [7] 1) ∧
    fetches .dynCounts (fed .table [0, 0] 0) ∧ fetches .clLen (fed .lenlens [0] 0) ∧
    fetches (.codeLengths clCode4) (fed .codelens [0] 0) ∧ fetches (.litLen code2) (fed .len [1] 0) ∧
    fetches (.distance dist2) (fed .dist [1] 0) ∧ fetches .crc32 (fed .check [1, 2, 3, 4] 0) ∧
    fetches .adler32 (fed .check [1, 2, 3, 4] 0) ∧ fetches .isize (fed .length [1, 2, 3, 4] 0) ∧
    (State.reset.running = false ∧ State.reset.commands = [] ∧ (decodeCommand .teardown).wellFormed = true) := by decide +kernel

/-! ### A safe state in the middle of a block, and one with a command no host can present -/

/-- Two codewords of one bit match whatever is held. -/
theorem covers_of_two {ε : Type} (a b : ε) : Code.covers [(⟨1, 0⟩, a), (⟨1, 1⟩, b)] := by
  intro hold
  have h : hold % 2 = 0 ∨ hold % 2 = 1 := by omega
  rcases h with h | h <;>
    simp [Code.firstMatch, Config.maxBits, Code.lookup, heldCodeword, revBits, h]

/-- 45_window.md R402: until the first allocation the window is empty, whatever size has been chosen for it. -/
theorem windowOk_of_unallocated {s : State} (empty : s.win = ⟨[], 0, 0, 0⟩) (lo : 8 ≤ s.wbits) (hi : s.wbits ≤ 15) :
    WindowOk s := by
  have chosen : s.wbits ≠ 0 := by omega
  constructor <;> simp [empty, chosen, lo, hi, Memory.wf]

/-- Mode LEN with 6 bytes of input and 258 of output space: `a` and the end of the block come first. -/
def midBlock : State :=
  { fed .len [0b10, 1, 2, 3, 4, 5] 258 with lcode := code2, dcode := dist2 }

theorem midBlock_safe : Safe midBlock where
  call := ⟨fun h => absurd h (by decide +kernel), fun _ => rfl⟩
  accumulator := ⟨by decide +kernel, by decide +kernel⟩
  error := ⟨by decide +kernel, by decide +kernel, by decide +kernel⟩
  window := windowOk_of_unallocated rfl (by decide +kernel) (by decide +kernel)
  decode := ⟨.inl (by decide +kernel), ⟨covers_of_two _ _, covers_of_two _ _⟩, trivial, by decide +kernel⟩

/-- Between calls, with an INFLATE queued whose output count is not a 32-bit number. -/
def unpresentable : State := { State.reset with commands := [.inflate [] (2 ^ 32) 0], mode := .type }

theorem unpresentable_safe : Safe unpresentable where
  call := ⟨fun _ => ⟨rfl, rfl, rfl, rfl⟩, fun h => absurd h (by decide +kernel)⟩
  accumulator := ⟨by decide +kernel, by decide +kernel⟩
  error := ⟨by decide +kernel, by decide +kernel, by decide +kernel⟩
  window := windowOk_of_unallocated rfl (by decide +kernel) (by decide +kernel)
  decode := ⟨Nat.zero_le 7, trivial, trivial, by decide +kernel⟩

theorem witness_Kept :
    ∃ t, CallOk midBlock ∧ AccumulatorOk midBlock ∧ ErrorOk midBlock ∧ WindowOk midBlock ∧ DecodeOk midBlock ∧
      step midBlock = .next t :=
  ⟨_, midBlock_safe.call, midBlock_safe.accumulator, midBlock_safe.error, midBlock_safe.window, midBlock_safe.decode, rfl⟩

theorem witness_SafeStepsNeverFault :
    Safe midBlock ∧ (∃ t, step midBlock = .next t) ∧ Safe unpresentable ∧
    step unpresentable = .refused .illFormedCommand :=
  ⟨midBlock_safe, ⟨_, rfl⟩, unpresentable_safe, rfl⟩

theorem witness_ElementBoundaryHoldsAtMostSevenBits :
    ∃ t i q, Safe midBlock ∧ midBlock.running = true ∧ action midBlock = .read (.litLen code2) ∧
      decode (.litLen code2) midBlock.src = .element i q ∧ exec i { midBlock with src := q } = .next t ∧ t.mode ≠ .bad :=
  ⟨_, _, _, midBlock_safe, rfl, rfl, rfl, rfl, by decide +kernel⟩

theorem witness_EveryCallEnds : Safe midBlock ∧ midBlock.running = true := ⟨midBlock_safe, rfl⟩

theorem witness_FastPathRefinesTheSlowPath :
    Safe midBlock ∧ midBlock.running = true ∧ midBlock.mode = .len ∧ fastSlack midBlock = true :=
  ⟨midBlock_safe, rfl, rfl, by decide +kernel⟩

theorem witness_TrimReturnsWholeBytes :
    ((⟨0xFFFFFFFF, 32, [], 4⟩ : BitStream).wf ∧ 32 / 8 ≤ 4) ∧ (⟨0x7F, 7, [], 0⟩ : BitStream).wf ∧ 7 / 8 ≤ 0 := by
  unfold BitStream.wf; decide +kernel

theorem witness_InputInOrderOutputKept :
    (∃ t, midBlock.running = true ∧ step midBlock = .next t ∧ t.running = true) ∧
    ∃ t, (call .done).running = true ∧ step (call .done) = .next t ∧ t.running = false :=
  ⟨⟨_, rfl, rfl, rfl⟩, ⟨_, rfl, rfl, rfl⟩⟩

/-- The clauses with and without output; a call that ends, with window bytes outside those written. -/
theorem witness_FramesOfStreamElements :
    (∃ t, exec (.gzipMtime 1) (call .time) = .next t ∧ (Instr.gzipMtime 1).isCommand = false ∧
      (Instr.gzipMtime 1).mayOutput = false) ∧
    (∃ t, exec (.literal ⟨1, 0⟩ 97) midBlock = .next t ∧ (Instr.literal ⟨1, 0⟩ 97).isCommand = false ∧
      (Instr.literal ⟨1, 0⟩ 97).mayOutput = true ∧ midBlock.running = true ∧ t.running = true ∧
      midBlock.win.wsize = 0) ∧
    (∃ t, exec (.literal ⟨1, 0⟩ 97) { fed .len [] 0 with outBuf := [7], win := ⟨[], 256, 1, 1⟩ } = .next t ∧
      ¬ (Window.mk [] 256 1 1).writes [7] 0) := by
  refine ⟨⟨_, rfl, rfl, rfl⟩, ⟨_, rfl, rfl, rfl, rfl, rfl, rfl⟩, _, rfl, ?_⟩
  rintro ⟨k, hk, h⟩
  have : k < 1 := hk
  interval_cases k
  exact absurd h (by decide +kernel)

theorem witness_WindowAndConfigurationFrame :
    (∃ t, step midBlock = .next t ∧ midBlock.running = true ∧ t.running = true) ∧
    ∃ t, step { State.reset with commands := [.init 15] } = .next t ∧
      t.wrap ≠ { State.reset with commands := [.init 15] }.wrap :=
  ⟨⟨_, rfl, rfl, rfl⟩, _, rfl, by decide +kernel⟩

end Sys2Proof.Tests
end

section
/-! The step lemmas of the state's invariants (10_state.md R49, R51, R52): what the mode rules and the commands can do to the fields the invariants speak of is said once, and each invariant is derived from it. -/

namespace Sys2Proof.Machine

/-! ### What a mode rule can do while the call goes on -/

/-- What every mode rule of a call keeps while the call goes on, of the fields the invariants speak of: the
configuration and the window stay, the accumulator stays in good order, and BAD is entered with a message and in no
other way (10_state.md R51, 60_exceptions.md R482). -/
structure CallFrame (s u : State) : Prop where
  valid : u.valid = s.valid := by simp
  running : u.running = s.running := by simp
  wrap : u.wrap = s.wrap := by simp
  wbits : s.wbits ≠ 0 → u.wbits = s.wbits := by simp
  win : u.win = s.win := by simp
  allocMayFail : u.allocMayFail = s.allocMayFail := by simp
  src : s.src.wf → u.src.wf := by simp
  error : u.mode = .bad ∧ u.msg ≠ .e0 ∨ u.msg = s.msg ∧ (u.mode = s.mode ∨ u.mode ≠ .bad ∧ u.mode ≠ .mem) := by simp

theorem CallFrame.refl (s : State) : CallFrame s s := {}

/-- Two rules in a row; only the last one may raise an error. -/
theorem CallFrame.trans {s u v : State} (h : CallFrame s u) (hu : u.mode ≠ .bad) (h' : CallFrame u v) :
    CallFrame s v where
  valid := h'.valid.trans h.valid
  running := h'.running.trans h.running
  wrap := h'.wrap.trans h.wrap
  wbits hs := by
    have hb := h.wbits hs
    rw [h'.wbits (hb ▸ hs), hb]
  win := h'.win.trans h.win
  allocMayFail := h'.allocMayFail.trans h.allocMayFail
  src := h'.src ∘ h.src
  error := by
    obtain ⟨hbad, -⟩ | ⟨hmsg, hmode⟩ := h.error
    · exact absurd hbad hu
    · obtain hraised | ⟨hmsg', hsame | hmoved⟩ := h'.error
      · exact .inl hraised
      · exact .inr ⟨hmsg'.trans hmsg, by rwa [hsame]⟩
      · exact .inr ⟨hmsg'.trans hmsg, .inr hmoved⟩

/-- What one iteration of the mode loop can do (46_host.md R448): the call goes on, or it ends with LEAVE. -/
inductive CallStep (s t : State) : Prop where
  | goesOn (h : CallFrame s t)
  | leaves (u : State) (r : Status) (h : CallFrame s u) (ht : t = leave r u)

/-- What was done to the bit stream before, with the accumulator left in good order, is part of the rule. -/
theorem CallFrame.of_src {s u : State} {q : BitStream} (hq : s.src.wf → q.wf) (h : CallFrame { s with src := q } u) :
    CallFrame s u :=
  ⟨h.valid, h.running, h.wrap, h.wbits, h.win, h.allocMayFail, h.src ∘ hq, h.error⟩

theorem CallStep.of_src {s t : State} {q : BitStream} (hq : s.src.wf → q.wf) (h : CallStep { s with src := q } t) :
    CallStep s t := by
  cases h with
  | goesOn h => exact .goesOn (h.of_src hq)
  | leaves u r h ht => exact .leaves u r (h.of_src hq) ht

theorem CallStep.leave (r : Status) (s : State) : CallStep s (leave r s) := .leaves s r (.refl s) rfl

theorem CallFrame.step {s u t : State} (h : CallFrame s u) (hu : u.mode ≠ .bad) (h' : CallStep u t) :
    CallStep s t := by
  cases h' with
  | goesOn h' => exact .goesOn (h.trans hu h')
  | leaves v r h' ht => exact .leaves v r (h.trans hu h') ht

/-- A meaning answers a next state that one iteration of the mode loop allows. -/
def CallResult (s : State) (r : Result) : Prop := ∃ t, r = .next t ∧ CallStep s t

/-- An error entry (60_exceptions.md R482). -/
theorem raise_frame {e : Msg} (he : e ≠ .e0) (s : State) : CallFrame s (s.raise e) := { error := by simp [he] }

/-- A mode left for another when a count has run out, and kept otherwise. -/
theorem mode_ite (c : Prop) [Decidable c] {m : Mode} (hb : m ≠ .bad) (hm : m ≠ .mem) (old : Mode) :
    (if c then m else old) = old ∨ (if c then m else old) ≠ .bad ∧ (if c then m else old) ≠ .mem := by
  split
  · exact .inr ⟨hb, hm⟩
  · exact .inl rfl

/-! ### The wrapper elements -/

/-- What HEAD's elements do to an unknown window size: it stays unknown in BAD only (10_state.md R32, 41_wrapper.md
R192, R193). -/
def SetsWindowBits (s t : State) : Prop :=
  t.outBuf = s.outBuf ∧ (s.wbits = 0 → t.wbits = 0 ∧ t.mode = .bad ∨ 8 ≤ t.wbits ∧ t.wbits ≤ 15)

theorem execZlibHeader_frame (cmf flg : Byte) (s : State) :
    ∃ t, execZlibHeader cmf flg s = .next t ∧ CallFrame s t ∧ SetsWindowBits s t := by
  refine ⟨_, rfl, ?_⟩
  generalize (fun r : HeaderRecord => { r with done := -1 }) = f
  rw [show (if s.wbits = 0 then { s.mapHead f with wbits := zlibWindowBits cmf } else s.mapHead f) =
      { s.mapHead f with wbits := if s.wbits = 0 then zlibWindowBits cmf else s.wbits } by split <;> rfl]
  generalize hb : (if s.wbits = 0 then zlibWindowBits cmf else s.wbits) = b
  have hkept : s.wbits ≠ 0 → b = s.wbits := fun h => by rw [← hb, if_neg h]
  split
  · exact ⟨{}, rfl, fun h => .inl ⟨h, rfl⟩⟩
  split
  · exact ⟨{}, rfl, fun h => .inl ⟨h, rfl⟩⟩
  split
  · exact ⟨{}, rfl, fun h => .inl ⟨h, rfl⟩⟩
  next hmax =>
  have hset : s.wbits = 0 → 8 ≤ b ∧ b ≤ 15 := fun h => by
    rw [← hb, if_pos h]
    exact ⟨Nat.le_add_left _ _, Nat.not_lt.1 hmax⟩
  split
  · exact ⟨{ wbits := hkept }, rfl, fun h => .inr (hset h)⟩
  · refine ⟨?_, rfl, fun h => .inr (hset h)⟩
    unfold zlibAccept
    cases zlibFdict flg <;> exact { wbits := hkept, src := fun _ => BitStream.initBits_wf _ }

theorem execGzipMagic_frame (s : State) :
    ∃ t, execGzipMagic s = .next t ∧ CallFrame s t ∧ SetsWindowBits s t := by
  refine ⟨_, rfl, { wbits := fun h => if_neg h, src := fun _ => BitStream.initBits_wf _ }, rfl, fun h => .inr ?_⟩
  simp [h]

theorem checkTrailer_frame (v : U32) (s : State) : CallFrame s (checkTrailer v s) := by
  unfold checkTrailer
  split
  · exact raise_frame (by decide) s
  · exact { src := fun _ => BitStream.initBits_wf _ }

theorem execGzipCmFlg_result (cm flg : Byte) (s : State) : CallResult s (execGzipCmFlg cm flg s) := by
  refine ⟨_, rfl, .goesOn ?_⟩
  split
  · exact raise_frame (by decide) s
  split
  · exact raise_frame (by decide) s
  · exact { src := fun _ => BitStream.initBits_wf _ }

theorem execGzipExtra_result (data : List Byte) (s : State) : CallResult s (execGzipExtra data s) :=
  ⟨_, rfl, .goesOn { error := .inr ⟨rfl, mode_ite _ (by decide) (by decide) s.mode⟩ }⟩

theorem execGzipName_result (data : List Byte) (s : State) : CallResult s (execGzipName data s) := by
  refine ⟨_, rfl, .goesOn ?_⟩
  split <;> exact {}

theorem execGzipComment_result (data : List Byte) (s : State) : CallResult s (execGzipComment data s) := by
  refine ⟨_, rfl, .goesOn ?_⟩
  split <;> exact {}

theorem finishGzipHeader_frame (s : State) : CallFrame s (finishGzipHeader s) := by
  unfold finishGzipHeader
  exact {}

theorem execGzipHcrc_result (crc : U16) (s : State) : CallResult s (execGzipHcrc crc s) := by
  refine ⟨_, rfl, .goesOn ?_⟩
  split
  · exact raise_frame (by decide) s
  · exact (finishGzipHeader_frame s.initBits).of_src fun _ => BitStream.initBits_wf _

theorem execGzipIsize_result (n : U32) (s : State) : CallResult s (execGzipIsize n s) := by
  refine ⟨_, rfl, .goesOn ?_⟩
  split
  · exact raise_frame (by decide) s
  · exact { src := fun _ => BitStream.initBits_wf _ }

/-! ### The block elements -/

theorem stopForTrees_step {s u : State} (h : CallFrame s u) : CallStep s (stopForTrees u) := by
  unfold stopForTrees
  split
  · exact .leaves u _ h rfl
  · exact .goesOn h

/-- Dropping bits keeps the accumulator in good order. -/
theorem dropBits_wf {s : State} (n : Nat) (h : s.src.wf) : (s.dropBits n).src.wf := BitStream.drop_wf h n

theorem execStoredLenNlen_result (len nlen : U16) (s : State) : CallResult s (execStoredLenNlen len nlen s) := by
  refine ⟨_, rfl, ?_⟩
  split
  · exact .goesOn (raise_frame (by decide) s)
  · exact stopForTrees_step { src := fun _ => BitStream.initBits_wf _ }

theorem execDynCounts_result (hlit hdist : BitVec 5) (hclen : BitVec 4) (s : State) :
    CallResult s (execDynCounts hlit hdist hclen s) := by
  refine ⟨_, rfl, .goesOn ?_⟩
  split
  · exact { src := dropBits_wf 14 }
  · exact { src := dropBits_wf 14 }

/-- Reading code lengths writes `lens` and `ncnt` only (42_blocks.md R257). -/
theorem pushLens_eq (len : BitVec 4) (n : Nat) (s : State) :
    ∃ l, pushLens len n s = { s with lens := l, ncnt := s.ncnt + n } := by
  induction n generalizing s with
  | zero => exact ⟨s.lens, rfl⟩
  | succ n ih =>
    obtain ⟨l, hl⟩ := ih { s.setLens s.ncnt len with ncnt := s.ncnt + 1 }
    exact ⟨l, by rw [pushLens, hl, Nat.add_right_comm]; rfl⟩

/-- Clearing lengths writes `lens` only (42_blocks.md R256). -/
theorem zeroClLens_eq (positions : List Nat) (s : State) : ∃ l, zeroClLens positions s = { s with lens := l } := by
  induction positions generalizing s with
  | nil => exact ⟨s.lens, rfl⟩
  | cons i is ih => exact ih (s.setLens (clOrder.getD i 0) 0)

theorem pushLens_frame (len : BitVec 4) (n : Nat) (s : State) : CallFrame s (pushLens len n s) := by
  obtain ⟨l, hl⟩ := pushLens_eq len n s
  rw [hl]
  exact {}

theorem repeatLens_frame (len : BitVec 4) (cnt : Nat) (s : State) : CallFrame s (repeatLens len cnt s) := by
  unfold repeatLens
  split
  · exact raise_frame (by decide) s
  · exact pushLens_frame len cnt s

theorem execClRepeatPrev_result (cw : Codeword) (r : BitVec 2) (s : State) :
    CallResult s (execClRepeatPrev cw r s) := by
  refine ⟨_, rfl, .goesOn (CallFrame.of_src (dropBits_wf cw.len) ?_)⟩
  split
  · exact raise_frame (by decide) _
  · exact (repeatLens_frame _ _ _).of_src (dropBits_wf 2)

theorem buildClTable_frame (s : State) : CallFrame s (buildClTable s) := by
  unfold buildClTable
  obtain ⟨l, hl⟩ := zeroClLens_eq ((List.range 19).drop s.ncnt) s
  rw [hl]
  dsimp only
  split
  · exact {}
  · exact {}

theorem buildTables_step (s : State) : CallStep s (buildTables s) := by
  unfold buildTables
  split
  · exact .goesOn (raise_frame (by decide) s)
  split
  · exact .goesOn (raise_frame (by decide) s)
  dsimp only
  split
  · exact .goesOn {}
  · exact stopForTrees_step {}

/-! ### The symbol elements -/

theorem litRule_step (s : State) : CallStep s (litRule s) := by
  obtain ⟨-, h⟩ | ⟨-, h⟩ := litRule_cases s
  · rw [h]; exact .leave .ok s
  · rw [h]; exact .goesOn {}

theorem matchRule_step (s : State) : CallStep s (matchRule s) := by
  obtain ⟨-, h⟩ | ⟨-, -, h⟩ | ⟨-, -, h⟩ := matchRule_cases s
  · rw [h]; exact .leave .ok s
  · rw [h]; exact .goesOn (raise_frame (by decide) s)
  · rw [h]
    exact .goesOn { error := .inr ⟨copyBack_msg _ _ _, mode_ite _ (by decide) (by decide) s.mode⟩ }

theorem finishLength_frame (x : Nat) (s : State) : CallFrame s (finishLength x s) :=
  { src := dropBits_wf s.extra }

theorem lengthElement_step (k : Fin 29) (x : Nat) (s : State) : CallStep s (lengthElement k x s) :=
  .goesOn (CallFrame.trans { } (by simp) (finishLength_frame x (startLength k s)))

theorem finishDistance_step (x : Nat) (s : State) : CallStep s (finishDistance x s) := by
  unfold finishDistance
  dsimp only
  split
  · exact .goesOn { src := dropBits_wf s.extra }
  · have h : CallFrame s (({ s with offset := s.offset + x }.dropBits s.extra).goto .matched) :=
      { src := dropBits_wf s.extra }
    exact h.step (by simp) (matchRule_step _)

theorem distanceElement_step (k : Fin 30) (x : Nat) (s : State) : CallStep s (distanceElement k x s) :=
  CallFrame.step { } (by simp) (finishDistance_step x (startDistance k s))

/-! ### Every element, and the modes that read none -/

/-- Every stream element has a meaning, and it is a rule of the mode loop. -/
theorem exec_result (i : Instr) (s : State) (hi : i.isCommand = false) : CallResult s (exec i s) :=
  match i, hi with
  | .zlibHeader cmf flg, _ =>
    have ⟨t, ht, h, _⟩ := execZlibHeader_frame cmf flg s
    ⟨t, ht, .goesOn h⟩
  | .gzipMagic, _ =>
    have ⟨t, ht, h, _⟩ := execGzipMagic_frame s
    ⟨t, ht, .goesOn h⟩
  | .gzipCmFlg cm flg, _ => execGzipCmFlg_result cm flg s
  | .zlibDictid _, _ | .gzipMtime _, _ | .gzipXflOs _ _, _ | .gzipXlen _, _ =>
    ⟨_, rfl, .goesOn { src := fun _ => BitStream.initBits_wf _ }⟩
  | .gzipExtra data, _ => execGzipExtra_result data s
  | .gzipName data, _ => execGzipName_result data s
  | .gzipComment data, _ => execGzipComment_result data s
  | .gzipHcrc crc, _ => execGzipHcrc_result crc s
  | .zlibAdler32 v, _ | .gzipCrc32 v, _ => ⟨_, rfl, .goesOn (checkTrailer_frame v s)⟩
  | .gzipIsize n, _ => execGzipIsize_result n s
  | .blockStored _, _ | .blockDynamic _, _ | .blockReserved _, _ =>
    ⟨_, rfl, .goesOn { src := dropBits_wf 3 }⟩
  | .blockFixed _, _ => ⟨_, rfl, stopForTrees_step { src := dropBits_wf 3 }⟩
  | .storedLenNlen len nlen, _ => execStoredLenNlen_result len nlen s
  | .storedData _, _ => ⟨_, rfl, .goesOn {}⟩
  | .dynCounts hlit hdist hclen, _ => execDynCounts_result hlit hdist hclen s
  | .dynCllen _, _ => ⟨_, rfl, .goesOn { src := dropBits_wf 3 }⟩
  | .clLength cw len, _ => ⟨_, rfl, .goesOn ((pushLens_frame len 1 _).of_src (dropBits_wf cw.len))⟩
  | .clRepeatPrev cw r, _ => execClRepeatPrev_result cw r s
  | .clZeroShort cw _, _ | .clZeroLong cw _, _ =>
    ⟨_, rfl, .goesOn ((repeatLens_frame 0 _ _).of_src (dropBits_wf _ ∘ dropBits_wf cw.len))⟩
  | .literal _ _, _ => ⟨_, rfl, CallFrame.step {} (by simp) (litRule_step _)⟩
  | .endOfBlock _, _ => ⟨_, rfl, .goesOn {}⟩
  | .llInvalid _, _ | .distInvalid _, _ => ⟨_, rfl, .goesOn (raise_frame (by decide) s)⟩
  | .length257 _, _ | .length258 _, _ | .length259 _, _ | .length260 _, _ | .length261 _, _ | .length262 _, _
  | .length263 _, _ | .length264 _, _ | .length265 _ _, _ | .length266 _ _, _ | .length267 _ _, _
  | .length268 _ _, _ | .length269 _ _, _ | .length270 _ _, _ | .length271 _ _, _ | .length272 _ _, _
  | .length273 _ _, _ | .length274 _ _, _ | .length275 _ _, _ | .length276 _ _, _ | .length277 _ _, _
  | .length278 _ _, _ | .length279 _ _, _ | .length280 _ _, _ | .length281 _ _, _ | .length282 _ _, _
  | .length283 _ _, _ | .length284 _ _, _ | .length285 _, _ => ⟨_, rfl, lengthElement_step _ _ s⟩
  | .distance0 _, _ | .distance1 _, _ | .distance2 _, _ | .distance3 _, _ | .distance4 _ _, _ | .distance5 _ _, _
  | .distance6 _ _, _ | .distance7 _ _, _ | .distance8 _ _, _ | .distance9 _ _, _ | .distance10 _ _, _
  | .distance11 _ _, _ | .distance12 _ _, _ | .distance13 _ _, _ | .distance14 _ _, _ | .distance15 _ _, _
  | .distance16 _ _, _ | .distance17 _ _, _ | .distance18 _ _, _ | .distance19 _ _, _ | .distance20 _ _, _
  | .distance21 _ _, _ | .distance22 _ _, _ | .distance23 _ _, _ | .distance24 _ _, _ | .distance25 _ _, _
  | .distance26 _ _, _ | .distance27 _ _, _ | .distance28 _ _, _ | .distance29 _ _, _ =>
    ⟨_, rfl, distanceElement_step _ _ s⟩

theorem resumeLength_step {s t : State} (h : resumeLength s = .next t) : CallStep s t := by
  unfold resumeLength at h
  obtain ⟨k, q, hq, hp, -⟩ | ⟨q, hq, hp, -⟩ | ⟨hq, -⟩ := s.src.need_cases s.extra
  · rw [hq] at h
    cases h
    exact .goesOn ((finishLength_frame _ _).of_src hp.wf)
  · rw [hq] at h
    cases h
    exact (CallStep.leave .ok _).of_src hp.wf
  · rw [hq] at h
    cases h

theorem resumeDistance_step {s t : State} (h : resumeDistance s = .next t) : CallStep s t := by
  unfold resumeDistance at h
  obtain ⟨k, q, hq, hp, -⟩ | ⟨q, hq, hp, -⟩ | ⟨hq, -⟩ := s.src.need_cases s.extra
  · rw [hq] at h
    cases h
    exact (finishDistance_step _ _).of_src hp.wf
  · rw [hq] at h
    cases h
    exact (CallStep.leave .ok _).of_src hp.wf
  · rw [hq] at h
    cases h

theorem dictRule_step (s : State) : CallStep s (dictRule s) := by
  unfold dictRule
  split
  · exact .goesOn {}
  · exact .leave .needDict s

theorem typeRule_step (s : State) : CallStep s (typeRule s) := by
  unfold typeRule
  split
  · exact .leave .ok s
  · exact .goesOn {}

/-- A mode that moves by itself follows a rule of the mode loop (46_host.md R448). -/
theorem action_move_step {s t : State} (h : action s = .move (.next t)) : CallStep s t := by
  unfold action at h
  cases hm : s.mode <;> simp only [hm] at h
  case flags | time | os | dictid | stored | table | len | dist => cases h
  case head | exlen | extra | name | comment =>
    split at h <;> cases h
    exact .goesOn {}
  case hcrc =>
    split at h <;> cases h
    exact .goesOn (finishGzipHeader_frame s)
  case typedo =>
    split at h <;> cases h
    exact .goesOn { src := BitStream.byteBits_wf }
  case copy =>
    split at h
    · cases h
      exact .goesOn {}
    split at h <;> cases h
    exact .leave .ok s
  case lenlens =>
    split at h <;> cases h
    exact .goesOn (buildClTable_frame s)
  case codelens =>
    split at h <;> cases h
    exact buildTables_step s
  case check =>
    split at h
    · cases h
      exact .goesOn {}
    split at h <;> cases h
  case length =>
    split at h <;> cases h
    exact .goesOn {}
  case lenext => exact resumeLength_step (Action.move.inj h)
  case distext => exact resumeDistance_step (Action.move.inj h)
  all_goals cases h
  case copy_ | len_ => exact .goesOn {}
  case dict => exact dictRule_step s
  case type => exact typeRule_step s
  case matched => exact matchRule_step s
  case lit => exact litRule_step s
  case done | bad | mem => exact .leave _ s

/-- The end of the input inside an element leaves the call (40_bitstream.md R167). -/
theorem starve_step {s : State} {q : BitStream} (hq : s.src.wf → q.wf) (p : Option Pending) :
    CallStep s (starve p q s) := by
  cases p with
  | none => exact .leaves _ .ok { src := hq } rfl
  | some p =>
    cases p with
    | length k => exact .leaves (startLength k { s with src := q }) .ok { src := hq } rfl
    | distance k => exact .leaves (startDistance k { s with src := q }) .ok { src := hq } rfl

/-- The instruction the decoder answers, where it answers one, is an element of the stream and not a command. -/
def noCommand : Fetched → Prop
  | .element i _ => i.isCommand = false
  | .starved _ _ => True
  | .overflow => True

theorem decodeField_noCommand {f : BitStream → Instr} (hf : ∀ q, (f q).isCommand = false) (n : Nat) (q : BitStream) :
    noCommand (decodeField n f q) := by
  unfold decodeField
  split
  · exact hf _
  · trivial
  · trivial

theorem decodeRun_noCommand {f : List Byte → Instr} (hf : ∀ data, (f data).isCommand = false) (data : List Byte)
    (q : BitStream) : noCommand (decodeRun data f q) := by
  unfold decodeRun
  split
  · trivial
  · exact hf _

theorem decodeExtra_noCommand {f : Nat → Instr} (hf : ∀ x, (f x).isCommand = false) (e : Nat) (p : Pending)
    (q : BitStream) : noCommand (decodeExtra e p f q) := by
  unfold decodeExtra
  split
  · exact hf _
  · trivial
  · trivial

theorem headInstr_isCommand (wrap : Wrap) (q : BitStream) : (headInstr wrap q).isCommand = false := by
  unfold headInstr
  split <;> rfl

theorem blockInstr_isCommand (q : BitStream) : (blockInstr q).isCommand = false := by
  unfold blockInstr
  dsimp only
  split <;> rfl

theorem lengthInstr_isCommand (k : Fin 29) (cw : Codeword) (x : Nat) : (lengthInstr k cw x).isCommand = false := by
  unfold lengthInstr
  split <;> rfl

theorem distanceInstr_isCommand (k : Fin 30) (cw : Codeword) (x : Nat) :
    (distanceInstr k cw x).isCommand = false := by
  unfold distanceInstr
  split <;> rfl

theorem decodeClSymbol_noCommand (cw : Codeword) (e : ClEntry) (q : BitStream) :
    noCommand (decodeClSymbol cw e q) := by
  unfold decodeClSymbol
  split
  · rfl
  split
  · exact decodeField_noCommand (fun _ => rfl) _ _
  split
  · exact decodeField_noCommand (fun _ => rfl) _ _
  · exact decodeField_noCommand (fun _ => rfl) _ _

theorem decodeLlSymbol_noCommand (cw : Codeword) (e : LlEntry) (q : BitStream) :
    noCommand (decodeLlSymbol cw e q) := by
  cases e with
  | len k => exact decodeExtra_noCommand (lengthInstr_isCommand k cw) _ _ _
  | lit | eob | invalid => rfl

theorem decodeDistSymbol_noCommand (cw : Codeword) (e : DistEntry) (q : BitStream) :
    noCommand (decodeDistSymbol cw e q) := by
  cases e with
  | dist k => exact decodeExtra_noCommand (distanceInstr_isCommand k cw) _ _ _
  | invalid => rfl

theorem decode_noCommand (ctx : Context) (q : BitStream) : noCommand (decode ctx q) := by
  cases ctx with
  | head wrap => exact decodeField_noCommand (headInstr_isCommand wrap) _ _
  | blockHeader => exact decodeField_noCommand blockInstr_isCommand _ _
  | flags | time | os | xlen | hcrc | dictid | adler32 | crc32 | isize | storedLen | dynCounts | clLen =>
    exact decodeField_noCommand (fun _ => rfl) _ _
  | extra | name | comment | storedData => exact decodeRun_noCommand (fun _ => rfl) _ _
  | codeLengths c =>
    simp only [decode]
    split
    · exact decodeClSymbol_noCommand _ _ _
    · trivial
    · trivial
  | litLen c =>
    simp only [decode]
    split
    · exact decodeLlSymbol_noCommand _ _ _
    · trivial
    · trivial
  | distance c =>
    simp only [decode]
    split
    · exact decodeDistSymbol_noCommand _ _ _
    · trivial
    · trivial

/-- A step with a call in progress is one iteration of the mode loop. -/
theorem step_running {s t : State} (hr : s.running = true) (h : step s = .next t) : CallStep s t := by
  cases step_cases h with
  | idle hr' | command _ _ hr' => rw [hr] at hr'; cases hr'
  | element ctx i q _ _ hd ht =>
    have hi : i.isCommand = false := by simpa [hd, noCommand] using decode_noCommand ctx s.src
    obtain ⟨t', ht', hs⟩ := exec_result i { s with src := q } hi
    obtain rfl : t' = t := by rw [ht'] at ht; cases ht; rfl
    exact hs.of_src fun hq => by simpa [hd, Fetched.wf] using decode_wf hq ctx
  | starved ctx p q _ _ hd ht => exact ht ▸ starve_step (fun hq => by simpa [hd, Fetched.wf] using decode_wf hq ctx) p
  | move _ ha => exact action_move_step ha

/-! ### The host commands -/

/-- Everything a host command can do (46_host.md R440 to R457). -/
inductive CommandStep (s t : State) : Prop where
  /-- an argument error answers only (R456) -/
  | refused (st : Status) (ht : t = answer st s)
  /-- INIT (R441) -/
  | init (windowBits : Int) (wrap : Wrap) (wbits : Nat) (hw : windowBitsConfig windowBits = some (wrap, wbits))
      (ht : t = answer .ok (resetKeep (discardWindow { s with valid := true, wrap := wrap, wbits := wbits })))
  /-- RESET that keeps the window (R443) -/
  | resetKeep (ht : t = answer .ok (resetKeep s))
  /-- RESET that discards it (R443) -/
  | resetFull (ht : t = answer .ok (resetFull s))
  /-- INFLATE (R445) -/
  | inflate (input : List Byte) (availOut : Nat) (flush : Flush) (hv : s.valid = true)
      (ht : t = startCall input availOut flush s)
  /-- SET_DICTIONARY, whether or not its window allocation failed (R452) -/
  | dictionary (dict : List Byte) (st : Status) (havedict : Bool) (hm : s.mode = .dict)
      (ht : t = answer st { windowUpdate dict s with havedict := havedict })
  /-- GET_HEADER (R453) -/
  | header (record : HeaderRecord) (ht : t = answer .ok { s with head := some record })
  /-- TEARDOWN (R454) -/
  | teardown (ht : t = answer .ok (discardWindow { s with valid := false, head := none }))

theorem exec_command_step {c : Command} {s t : State} (h : exec (decodeCommand c) s = .next t) :
    CommandStep s t := by
  cases c with
  | init windowBits =>
    injection h with h
    split at h
    · exact .refused _ h.symm
    · next wrap wbits hw => exact .init windowBits wrap wbits hw h.symm
  | reset keep =>
    injection h with h
    split at h
    · exact .refused _ h.symm
    cases keep with
    | true => exact .resetKeep h.symm
    | false => exact .resetFull h.symm
  | inflate input availOut flush =>
    injection h with h
    split at h
    · exact .refused _ h.symm
    next hv =>
    split at h
    · exact .refused _ h.symm
    · next f _ => exact .inflate input availOut f (by simpa using hv) h.symm
  | setDictionary dict =>
    injection h with h
    split at h
    · exact .refused _ h.symm
    next hm =>
    have hdict : s.mode = .dict := by simp only [not_or, not_not] at hm; exact hm.2
    split at h
    · exact .refused _ h.symm
    split at h
    · exact .dictionary dict .memError _ hdict h.symm
    · exact .dictionary dict .ok true hdict h.symm
  | getHeader record =>
    injection h with h
    split at h
    · exact .refused _ h.symm
    · exact .header _ h.symm
  | teardown =>
    injection h with h
    split at h
    · exact .refused _ h.symm
    · exact .teardown h.symm

/-- Every step keeps an invariant that does not read the queue and is kept with a call in progress and by the host's
commands. -/
theorem step_keeps {I : State → Prop} (hqueue : ∀ s rest, I s → I { s with commands := rest })
    (hrunning : ∀ s t, I s → s.running = true → step s = .next t → I t)
    (hcommand : ∀ s t, I s → s.running = false → CommandStep s t → I t) {s t : State} (h : I s)
    (hs : step s = .next t) : I t := by
  cases step_cases hs with
  | idle _ _ ht => exact ht ▸ h
  | command c rest hr _ _ ht => exact hcommand _ t (hqueue s rest h) hr (exec_command_step ht)
  | element _ _ _ hr | starved _ _ _ hr | move hr => exact hrunning s t h hr hs

/-- The prologue leaves every mode but TYPE as it is (46_host.md R447). -/
theorem startCall_mode {m : Mode} (ht : m ≠ .type) (ht' : m ≠ .typedo) (input : List Byte) (availOut : Nat)
    (flush : Flush) (s : State) : (startCall input availOut flush s).mode = m ↔ s.mode = m := by
  by_cases h : s.mode = .type <;> simp [startCall, h, ht.symm, ht'.symm]

/-! ### The call registers -/

theorem CallOk.leave (r : Status) (s : State) : CallOk (leave r s) :=
  ⟨fun _ => by simp, fun h => by simp at h⟩

theorem CallOk.step {s t : State} (h : CallOk s) (hr : s.running = true) (hs : CallStep s t) : CallOk t := by
  cases hs with
  | goesOn hf => exact ⟨fun h' => by simp [hf.running, hr] at h', fun _ => hf.valid.trans (h.valid hr)⟩
  | leaves u r _ ht => exact ht ▸ CallOk.leave r u

/-- Between calls, what leaves the call registers alone leaves them in good order. -/
theorem CallOk.of_idle {s u : State} (h : CallOk s) (hr : s.running = false) (hrunning : u.running = s.running)
    (hinput : u.src.input = s.src.input) (htaken : u.src.taken = s.src.taken) (hout : u.outBuf = s.outBuf)
    (hleft : u.left = s.left) : CallOk u where
  idle _ := by rw [hinput, htaken, hout, hleft]; exact h.idle hr
  valid h' := by simp [hrunning, hr] at h'

theorem CallOk.command {s t : State} (h : CallOk s) (hr : s.running = false) (hs : CommandStep s t) : CallOk t := by
  cases hs with
  | inflate input availOut flush hv ht => exact ht ▸ ⟨nofun, fun _ => hv⟩
  | dictionary dict st b _ ht => exact ht ▸ h.of_idle hr (by simp) (by simp) (by simp) (by simp) (by simp)
  | refused _ ht | init _ _ _ _ ht | resetKeep ht | resetFull ht | header _ ht | teardown ht =>
    exact ht ▸ h.of_idle hr rfl rfl rfl rfl rfl

/-- Settles O47: the rules of a call keep `valid` and LEAVE clears the call's registers. -/
theorem callRegistersKept : Obligations.CallRegistersKept := fun _ _ h hs =>
  step_keeps (fun _ _ h => ⟨h.idle, h.valid⟩) (fun _ _ h hr hs => h.step hr (step_running hr hs))
    (fun _ _ h hr hc => h.command hr hc) h hs

/-! ### The accumulator -/

theorem AccumulatorOk.step {s t : State} (h : AccumulatorOk s) (hs : CallStep s t) : AccumulatorOk t := by
  cases hs with
  | goesOn hf => exact hf.src h
  | leaves u r hf ht =>
    subst ht
    have hu : u.src.wf := hf.src h
    unfold AccumulatorOk
    rw [leave_src]
    exact hu

theorem AccumulatorOk.command {s t : State} (h : AccumulatorOk s) (hs : CommandStep s t) : AccumulatorOk t := by
  cases hs with
  | init _ _ _ _ ht | resetKeep ht | resetFull ht => exact ht ▸ BitStream.initBits_wf s.src
  | dictionary dict _ _ _ ht =>
    subst ht
    unfold AccumulatorOk at h ⊢
    simpa using h
  | refused _ ht | inflate _ _ _ _ ht | header _ ht | teardown ht => exact ht ▸ h

/-- Settles O48: every rule drops, clears or keeps bits, and the decoder pulls within the bound. -/
theorem accumulatorKept : Obligations.AccumulatorKept := fun _ _ h hs =>
  step_keeps (I := AccumulatorOk) (fun _ _ h => h) (fun _ _ h hr hs => h.step (step_running hr hs))
    (fun _ _ h _ hc => h.command hc) h hs

/-! ### BAD, MEM and the message -/

/-- The host learns of an error with the next iteration; the mode stays (60_exceptions.md R482, R484). -/
theorem step_of_error_mode {s t : State} (hr : s.running = true) (hm : s.mode = .bad ∨ s.mode = .mem)
    (h : step s = .next t) : ∃ r, t = leave r s := by
  obtain hm | hm := hm
  · have : step s = .next (leave .dataError s) := by simp [step, hr, stepCall, action, hm]
    exact ⟨_, by rw [this] at h; cases h; rfl⟩
  · have : step s = .next (leave .memError s) := by simp [step, hr, stepCall, action, hm]
    exact ⟨_, by rw [this] at h; cases h; rfl⟩

theorem ErrorOk.leave {s : State} (h : ErrorOk s) (r : Status) : ErrorOk (leave r s) := by
  obtain hm | ⟨hm, ha⟩ := leave_mode r s
  · exact ⟨by simpa [hm] using h.bad, by simpa [hm] using h.msg, by simpa [hm] using h.mem⟩
  · exact ⟨by simp [hm], fun _ => .inr hm, fun _ => by simpa using ha⟩

theorem ErrorOk.quiet {s : State} (h : ErrorOk s) (hb : s.mode ≠ .bad) (hm : s.mode ≠ .mem) : s.msg = .e0 := by
  by_contra hmsg
  exact (h.msg hmsg).elim hb hm

/-- A state whose mode is no error mode and which has no message is in good order. -/
theorem ErrorOk.of_quiet {s : State} (hb : s.mode ≠ .bad) (hm : s.mode ≠ .mem) (hmsg : s.msg = .e0) : ErrorOk s :=
  ⟨fun h => absurd h hb, fun h => absurd hmsg h, fun h => absurd h hm⟩

theorem ErrorOk.frame {s u : State} (h : ErrorOk s) (hb : s.mode ≠ .bad) (hm : s.mode ≠ .mem) (hf : CallFrame s u) :
    ErrorOk u := by
  obtain ⟨hbad, hmsg⟩ | ⟨hmsg, hsame | ⟨hb', hm'⟩⟩ := hf.error
  · exact ⟨fun _ => hmsg, fun _ => .inl hbad, by simp [hbad]⟩
  · exact .of_quiet (hsame ▸ hb) (hsame ▸ hm) (hmsg.trans (h.quiet hb hm))
  · exact .of_quiet hb' hm' (hmsg.trans (h.quiet hb hm))

theorem ErrorOk.step {s t : State} (h : ErrorOk s) (hr : s.running = true) (hs : step s = .next t) : ErrorOk t := by
  by_cases herr : s.mode = .bad ∨ s.mode = .mem
  · obtain ⟨r, rfl⟩ := step_of_error_mode hr herr hs
    exact h.leave r
  · obtain ⟨hb, hm⟩ := not_or.1 herr
    cases step_running hr hs with
    | goesOn hf => exact h.frame hb hm hf
    | leaves u r hf ht => exact ht ▸ (h.frame hb hm hf).leave r

theorem ErrorOk.command {s t : State} (h : ErrorOk s) (hs : CommandStep s t) : ErrorOk t := by
  cases hs with
  | init _ _ _ _ ht | resetKeep ht | resetFull ht => exact ht ▸ .of_quiet nofun nofun rfl
  | refused _ ht | header _ ht | teardown ht => exact ht ▸ ⟨h.bad, h.msg, h.mem⟩
  | inflate input availOut flush _ ht =>
    subst ht
    have hbad := startCall_mode (m := .bad) nofun nofun input availOut flush s
    have hmem := startCall_mode (m := .mem) nofun nofun input availOut flush s
    exact ⟨fun hm => h.bad (hbad.1 hm), fun hm => (h.msg hm).imp hbad.2 hmem.2, fun hm => h.mem (hmem.1 hm)⟩
  | dictionary dict _ _ hm ht =>
    subst ht
    have hmsg : s.msg = .e0 := h.quiet (by simp [hm]) (by simp [hm])
    obtain ⟨-, hmode, -, -, ha⟩ | ⟨-, hmode, -⟩ := windowUpdate_cases dict s
    · exact ⟨by simp [answer, hmode], by simp [answer, hmode], fun _ => by simpa [answer] using ha⟩
    · exact .of_quiet (by simp [hmode, hm]) (by simp [hmode, hm]) (by simpa using hmsg)

/-- Settles O49: outside BAD and MEM there is no message, and from them a step only leaves. -/
theorem errorModesKept : Obligations.ErrorModesKept := fun _ _ h hs =>
  step_keeps (fun _ _ h => ⟨h.bad, h.msg, h.mem⟩) (fun _ _ h hr hs => h.step hr hs)
    (fun _ _ h _ hc => h.command hc) h hs

/-! ### The window -/

/-- The window stays in good order where it and the configuration stay; a known size also covers every mode and any
output. -/
theorem WindowOk.of_same {s u : State} (h : WindowOk s) (hwin : u.win = s.win) (hwrap : u.wrap = s.wrap)
    (hbits : u.wbits = s.wbits) (hknown : s.wbits = 0 → u.mode = .head ∨ u.mode = .bad ∨ u.mode = .mem)
    (houtput : s.wbits = 0 → u.outBuf = []) : WindowOk u where
  whave := hwin ▸ h.whave
  wnext := hwin ▸ h.wnext
  filling := hwin ▸ h.filling
  size := by rw [hwin, hbits]; exact h.size
  wbits := hbits ▸ h.wbits
  raw hw := hbits ▸ h.raw (hwrap ▸ hw)
  known hb := hknown (hbits ▸ hb)
  output ho hb := ho (houtput (hbits ▸ hb))
  ram := hwin ▸ h.ram
  space := hwin ▸ h.space

theorem WindowOk.no_output {s : State} (h : WindowOk s) (hb : s.wbits = 0) : s.outBuf = [] := by
  by_contra ho
  exact h.output ho hb

/-- Discarding the window leaves it in good order under any configuration R442 admits. -/
theorem WindowOk.of_discarded {s u : State} (h : WindowOk s) (hwin : u.win = ⟨s.win.ram, 0, 0, 0⟩)
    (hbits : u.wbits = 0 ∨ 8 ≤ u.wbits ∧ u.wbits ≤ 15) (hraw : u.wrap = .none → u.wbits ≠ 0)
    (hknown : u.wbits = 0 → u.mode = .head ∨ u.mode = .bad ∨ u.mode = .mem) (houtput : u.wbits = 0 → u.outBuf = []) :
    WindowOk u where
  whave := by simp [hwin]
  wnext := by simp [hwin]
  filling := by simp [hwin]
  size := by simp [hwin]
  wbits := hbits
  raw := hraw
  known := hknown
  output ho hb := ho (houtput hb)
  ram := by rw [hwin]; exact h.ram
  space := by rw [hwin]; exact h.space

/-- The window an update writes into is allocated, in good order, and lists what the old one listed (45_window.md
R402). -/
theorem WindowOk.freshWindow {s : State} (h : WindowOk s) :
    (freshWindow s).wsize = 2 ^ s.wbits ∧ (freshWindow s).wnext < (freshWindow s).wsize ∧
      (freshWindow s).whave ≤ (freshWindow s).wsize ∧
      ((freshWindow s).whave < (freshWindow s).wsize → (freshWindow s).wnext = (freshWindow s).whave) ∧
      (freshWindow s).ram = s.win.ram := by
  unfold Machine.freshWindow
  split
  · exact ⟨rfl, by positivity, Nat.zero_le _, fun _ => rfl, rfl⟩
  · next hs =>
    exact ⟨(h.size.resolve_left hs).1, h.wnext.resolve_right fun hn => hs hn.1, h.whave, h.filling, rfl⟩

/-- WindowUpdate keeps the window in good order (45_window.md R403, R404). -/
theorem WindowOk.windowUpdate {s : State} (h : WindowOk s) (hb : s.wbits ≠ 0) (data : List Byte) :
    WindowOk (windowUpdate data s) := by
  obtain ⟨-, -, hwin, -⟩ | ⟨-, -, hwin⟩ := windowUpdate_cases data s
  · exact h.of_same hwin (by simp) (by simp) (fun h0 => absurd h0 hb) (fun h0 => absurd h0 hb)
  obtain ⟨hsize, hnext, hhave, hfill, hram⟩ := h.freshWindow
  obtain ⟨asize, anext, ahave, afill⟩ := Window.append_ok hnext hhave hfill data
  have hbits := h.wbits.resolve_left hb
  exact {
    whave := by rw [hwin, asize]; exact ahave
    wnext := by rw [hwin, asize]; exact .inl anext
    filling := by rw [hwin, asize]; exact afill
    size := .inr ⟨by rw [hwin, asize, hsize, windowUpdate_wbits], by simpa using hb⟩
    wbits := by simpa using h.wbits
    raw := by simpa using h.raw
    known := fun h0 => absurd (by simpa using h0) hb
    output := fun _ => by simpa using hb
    ram := by rw [hwin]; exact Window.append_wf (hram ▸ h.ram) data
    space := by
      intro c hc
      rw [hwin] at hc
      obtain hold | hnew := Window.append_space hnext hc
      · exact h.space c (hram ▸ hold)
      · have : (2 : Nat) ^ s.wbits ≤ 2 ^ 15 := Nat.pow_le_pow_right (by decide) hbits.2
        simp only [Config.dMax]
        omega }

/-- LEAVE keeps the window in good order: its epilogue updates the window only with output (46_host.md R450). -/
theorem WindowOk.leave {s : State} (h : WindowOk s) (r : Status) : WindowOk (leave r s) := by
  have hend : ∀ (st : Status) (u : State), WindowOk u → WindowOk (endCall st u) := fun st u hu =>
    hu.of_same rfl rfl rfl hu.known fun _ => rfl
  have htotals : ∀ u : State, WindowOk u → WindowOk (addTotals u) := fun u hu =>
    hu.of_same rfl rfl rfl hu.known hu.no_output
  obtain ⟨ho, -, -, heq, -⟩ | ⟨heq, -⟩ := leave_cases r s
  · exact heq ▸ hend _ _ (h.windowUpdate (h.output ho) _)
  · rw [heq]
    refine hend _ _ (htotals _ ?_)
    split
    · exact h
    · next ho => exact h.windowUpdate (h.output ho) _

theorem WindowOk.frame {s u : State} (h : WindowOk s) (hb : s.wbits ≠ 0) (hf : CallFrame s u) : WindowOk u :=
  h.of_same hf.win hf.wrap (hf.wbits hb) (fun h0 => absurd h0 hb) (fun h0 => absurd h0 hb)

/-- While its size is unknown the window is not allocated (10_state.md R32). -/
theorem WindowOk.unallocated {s : State} (h : WindowOk s) (hb : s.wbits = 0) : s.win = ⟨s.win.ram, 0, 0, 0⟩ := by
  have hsize : s.win.wsize = 0 := h.size.resolve_right fun hs => hs.2 hb
  have hhave : s.win.whave = 0 := Nat.le_zero.1 (hsize ▸ h.whave)
  have hnext : s.win.wnext = 0 := (h.wnext.resolve_left (by omega)).2
  calc s.win = ⟨s.win.ram, s.win.wsize, s.win.whave, s.win.wnext⟩ := rfl
    _ = ⟨s.win.ram, 0, 0, 0⟩ := by rw [hsize, hhave, hnext]

/-- HEAD's elements may make the size known while no window is allocated (10_state.md R32). -/
theorem WindowOk.setsWindowBits {s u : State} (h : WindowOk s) (hb : s.wbits = 0) (hf : CallFrame s u)
    (hset : SetsWindowBits s u) : WindowOk u := by
  obtain ⟨hout, hbits⟩ := hset
  have hbits := hbits hb
  exact h.of_discarded (hf.win.trans (h.unallocated hb)) (hbits.imp_left And.left)
    (fun hw => absurd hb (h.raw (hf.wrap ▸ hw))) (fun h0 => .inr (.inl (hbits.resolve_right (by omega)).2))
    fun _ => hout.trans (h.no_output hb)

/-- HEAD, where a wrapper is expected, reads a gzip magic or a zlib header, or waits (41_wrapper.md R192, R193). -/
theorem step_head {s t : State} (hr : s.running = true) (hm : s.mode = .head) (hw : s.wrap ≠ .none)
    (h : step s = .next t) :
    (∃ q, t = leave .ok { s with src := q }) ∨
    ∃ q, CallFrame { s with src := q } t ∧ SetsWindowBits { s with src := q } t := by
  have hstep : step s = stepCall s := by simp [step, hr]
  have haction : action s = .read (.head s.wrap) := by simp [action, hm, hw]
  rw [hstep, stepCall, haction] at h
  dsimp only [decode] at h
  obtain ⟨k, q, hq, -⟩ | ⟨q, hq, -⟩ | ⟨hq, -⟩ := decodeField_cases 16 (headInstr s.wrap) s.src
  · rw [hq] at h
    dsimp only at h
    refine .inr ⟨q, ?_⟩
    unfold headInstr at h
    split at h
    · obtain ⟨u, hu, hframe⟩ := execGzipMagic_frame { s with src := q }
      cases hu.symm.trans h
      exact hframe
    · obtain ⟨u, hu, hframe⟩ := execZlibHeader_frame _ _ { s with src := q }
      cases hu.symm.trans h
      exact hframe
  · rw [hq] at h
    cases h
    exact .inl ⟨q, rfl⟩
  · rw [hq] at h
    cases h

/-- The window does not depend on the bit stream. -/
theorem WindowOk.withSrc {s : State} (h : WindowOk s) (q : BitStream) : WindowOk { s with src := q } :=
  h.of_same rfl rfl rfl h.known h.no_output

theorem WindowOk.step {s t : State} (h : WindowOk s) (hr : s.running = true) (hs : step s = .next t) :
    WindowOk t := by
  by_cases hb : s.wbits = 0
  · obtain hm | herr := h.known hb
    · obtain ⟨q, rfl⟩ | ⟨q, hf, hset⟩ := step_head hr hm (fun hw => h.raw hw hb) hs
      · exact (h.withSrc q).leave .ok
      · exact (h.withSrc q).setsWindowBits hb hf hset
    · obtain ⟨r, rfl⟩ := step_of_error_mode hr herr hs
      exact h.leave r
  · cases step_running hr hs with
    | goesOn hf => exact h.frame hb hf
    | leaves u r hf ht => exact ht ▸ (h.frame hb hf).leave r

/-- Every windowBits R442 admits selects a size of 2^8 to 2^15, or none with a wrapper to read it from. -/
theorem windowBitsConfig_some {w : Int} {wrap : Wrap} {wbits : Nat} (h : windowBitsConfig w = some (wrap, wbits)) :
    (wbits = 0 ∨ 8 ≤ wbits ∧ wbits ≤ 15) ∧ (wrap = .none → wbits ≠ 0) := by
  unfold windowBitsConfig at h
  split at h
  · cases h
    exact ⟨by omega, fun _ => by omega⟩
  repeat' split at h
  all_goals cases h
  all_goals exact ⟨by omega, nofun⟩

theorem WindowOk.command {s t : State} (h : WindowOk s) (hout : s.outBuf = []) (hs : CommandStep s t) :
    WindowOk t := by
  cases hs with
  | refused _ ht | header _ ht => exact ht ▸ h.of_same rfl rfl rfl h.known fun _ => hout
  | init _ wrap wbits hw ht =>
    obtain ⟨hbits, hraw⟩ := windowBitsConfig_some hw
    exact ht ▸ h.of_discarded rfl hbits hraw (fun _ => .inl rfl) fun _ => hout
  | resetKeep ht => exact ht ▸ h.of_same rfl rfl rfl (fun _ => .inl rfl) fun _ => hout
  | resetFull ht => exact ht ▸ h.of_discarded rfl h.wbits h.raw (fun _ => .inl rfl) fun _ => hout
  | teardown ht => exact ht ▸ h.of_discarded rfl h.wbits h.raw h.known fun _ => hout
  | inflate input availOut flush _ ht =>
    refine ht ▸ h.of_same rfl rfl rfl (fun hb => ?_) fun _ => rfl
    have hmode : ∀ m : Mode, m ≠ .type → m ≠ .typedo → s.mode = m → (startCall input availOut flush s).mode = m :=
      fun m h1 h2 => (startCall_mode h1 h2 input availOut flush s).2
    exact (h.known hb).imp (hmode _ nofun nofun) (Or.imp (hmode _ nofun nofun) (hmode _ nofun nofun))
  | dictionary dict _ _ hm ht =>
    have hb : s.wbits ≠ 0 := fun hb => by simpa [hm] using h.known hb
    have hu := h.windowUpdate hb dict
    exact ht ▸ hu.of_same rfl rfl rfl hu.known hu.no_output

/-- Settles O50: a step of a call keeps the window by the rules' frame and LEAVE's update, a command by its own
result; the call registers say that no output is left when INIT makes the size unknown. -/
theorem windowKept : Obligations.WindowKept := by
  intro s t hcall h hs
  cases step_cases hs with
  | idle _ _ ht => exact ht ▸ h
  | command c rest hr _ _ ht =>
    obtain ⟨-, -, hout, -⟩ := hcall.idle hr
    have hqueue : WindowOk { s with commands := rest } := h.of_same rfl rfl rfl h.known h.no_output
    exact hqueue.command hout (exec_command_step ht)
  | element _ _ _ hr | starved _ _ _ hr | move hr => exact h.step hr hs

/-! ### The state after reset -/

theorem reset_callOk : CallOk State.reset := ⟨fun _ => ⟨rfl, rfl, rfl, rfl⟩, nofun⟩

theorem reset_errorOk : ErrorOk State.reset := .of_quiet nofun nofun rfl

theorem reset_windowOk : WindowOk State.reset where
  whave := Nat.le_refl 0
  wnext := .inr ⟨rfl, rfl⟩
  filling := nofun
  size := .inl rfl
  wbits := .inr (by decide)
  raw := nofun
  known := nofun
  output := nofun
  ram := Memory.reset_wf
  space := nofun

theorem reset_decodeOk : DecodeOk State.reset where
  bits := .inl rfl
  codes := trivial
  scratch := trivial
  lens := List.length_replicate

/-- Settles O46, one invariant at a time. -/
theorem resetStateIsSafe : Obligations.ResetStateIsSafe :=
  ⟨⟨reset_callOk, BitStream.initBits_wf State.reset.src, reset_errorOk, reset_windowOk, reset_decodeOk⟩,
    rfl, rfl, rfl, rfl, rfl, rfl, rfl, rfl, rfl, rfl, rfl, rfl, rfl, rfl, rfl, rfl, rfl, rfl⟩

end Sys2Proof.Machine
end

section
/-! How a call's input is taken and its output grows (20_memory.md R81 to R84): the decoder takes input bytes in order, every rule of the mode loop appends to the output within its space, and LEAVE hands both to the host. -/

namespace Sys2Proof

/-- From `q` to `q'` input bytes are taken in order, each counted (20_memory.md R81). -/
def BitStream.Advances (q q' : BitStream) : Prop :=
  ∃ k, k ≤ q.input.length ∧ q'.input = q.input.drop k ∧ q'.taken = q.taken + k

namespace BitStream

/-- What touches held bits only takes no input. -/
theorem Advances.of_same {q q' : BitStream} (hinput : q'.input = q.input) (htaken : q'.taken = q.taken) :
    q.Advances q' := ⟨0, Nat.zero_le _, hinput, htaken⟩

theorem Advances.trans {q q' q'' : BitStream} (h : q.Advances q') (h' : q'.Advances q'') : q.Advances q'' := by
  obtain ⟨k, hk, hinput, htaken⟩ := h
  obtain ⟨l, hl, hinput', htaken'⟩ := h'
  rw [hinput, List.length_drop] at hl
  exact ⟨k + l, by omega, by rw [hinput', hinput, List.drop_drop], by omega⟩

theorem Pulled.advances {k : Nat} {q q' : BitStream} (h : Pulled k q q') : q.Advances q' :=
  ⟨k, h.le, h.input, h.taken⟩

theorem drop_advances (n : Nat) (q : BitStream) : q.Advances (q.drop n) := .of_same rfl rfl

theorem takeBytes_advances (n : Nat) (q : BitStream) : q.Advances (q.takeBytes n) :=
  ⟨min n q.input.length, Nat.min_le_right _ _, List.drop_eq_drop_min, rfl⟩

/-- The count grows by exactly what the input loses, so it stays within what was presented. -/
theorem Advances.taken_bounds {q q' : BitStream} (h : q.Advances q') :
    q.taken ≤ q'.taken ∧ q'.taken ≤ q.taken + q.input.length := by
  obtain ⟨k, hk, -, htaken⟩ := h
  omega

end BitStream

/-! ### What the decoder takes -/

/-- A run of stored bytes fits the output space `room` (42_blocks.md R254). -/
def Instr.fits (room : Nat) : Instr → Prop
  | .storedData data => data.length ≤ room
  | _ => True

/-- A run of stored bytes is read for the output space `room` at most (42_blocks.md R254). -/
def Context.fits (room : Nat) : Context → Prop
  | .storedData n => n ≤ room
  | _ => True

/-- What a decoder answers at `q`: input is taken in order, and an element it finds fits the output space. -/
def Fetched.inOrder (q : BitStream) (room : Nat) : Fetched → Prop
  | .element i q' => q.Advances q' ∧ i.fits room
  | .starved _ q' => q.Advances q'
  | .overflow => True

/-- Input taken before the decoder ran is part of what was taken. -/
theorem Fetched.inOrder.of_advances {q q' : BitStream} {room : Nat} {r : Fetched} (h : q.Advances q')
    (hr : r.inOrder q' room) : r.inOrder q room := by
  cases r with
  | element => exact ⟨h.trans hr.1, hr.2⟩
  | starved => exact h.trans hr
  | overflow => trivial

section

variable {room : Nat}

theorem decodeField_inOrder {f : BitStream → Instr} (hf : ∀ q, (f q).fits room) (n : Nat) (q : BitStream) :
    (decodeField n f q).inOrder q room := by
  obtain ⟨k, q', hd, hp, -⟩ | ⟨q', hd, hp, -⟩ | ⟨hd, -⟩ := decodeField_cases n f q
  · rw [hd]; exact ⟨hp.advances, hf q'⟩
  · rw [hd]; exact hp.advances
  · rw [hd]; trivial

theorem decodeExtra_inOrder {f : Nat → Instr} (hf : ∀ x, (f x).fits room) (e : Nat) (p : Pending) (q : BitStream) :
    (decodeExtra e p f q).inOrder q room := by
  obtain ⟨k, q', hd, hp, -⟩ | ⟨q', hd, hp, -⟩ | ⟨hd, -⟩ := decodeExtra_cases e p f q
  · rw [hd]; exact ⟨hp.advances, hf _⟩
  · rw [hd]; exact hp.advances
  · rw [hd]; trivial

theorem decodeRun_inOrder {f : List Byte → Instr} {data : List Byte} (hf : (f data).fits room) (q : BitStream) :
    (decodeRun data f q).inOrder q room := by
  unfold decodeRun
  split
  · exact .of_same rfl rfl
  · exact ⟨q.takeBytes_advances _, hf⟩

theorem headInstr_fits (wrap : Wrap) (q : BitStream) : (headInstr wrap q).fits room := by
  unfold headInstr
  split <;> trivial

theorem blockInstr_fits (q : BitStream) : (blockInstr q).fits room := by
  unfold blockInstr
  dsimp only
  split <;> trivial

theorem lengthInstr_fits (k : Fin 29) (cw : Codeword) (x : Nat) : (lengthInstr k cw x).fits room := by
  unfold lengthInstr
  split <;> trivial

theorem distanceInstr_fits (k : Fin 30) (cw : Codeword) (x : Nat) : (distanceInstr k cw x).fits room := by
  unfold distanceInstr
  split <;> trivial

theorem decodeClSymbol_inOrder (cw : Codeword) (e : ClEntry) (q : BitStream) :
    (decodeClSymbol cw e q).inOrder q room := by
  unfold decodeClSymbol
  split
  · exact ⟨.of_same rfl rfl, trivial⟩
  split
  · exact decodeField_inOrder (fun _ => by trivial) _ _
  split
  · exact decodeField_inOrder (fun _ => by trivial) _ _
  · exact decodeField_inOrder (fun _ => by trivial) _ _

theorem decodeLlSymbol_inOrder (cw : Codeword) (e : LlEntry) (q : BitStream) :
    (decodeLlSymbol cw e q).inOrder q room := by
  cases e with
  | len k => exact decodeExtra_inOrder (lengthInstr_fits k cw) _ _ _
  | lit | eob | invalid => exact ⟨.of_same rfl rfl, trivial⟩

theorem decodeDistSymbol_inOrder (cw : Codeword) (e : DistEntry) (q : BitStream) :
    (decodeDistSymbol cw e q).inOrder q room := by
  cases e with
  | dist k => exact decodeExtra_inOrder (distanceInstr_fits k cw) _ _ _
  | invalid => exact ⟨.of_same rfl rfl, trivial⟩

/-- The decoder takes input bytes in order, and no more stored bytes than its context asks for. -/
theorem decode_inOrder {ctx : Context} (hctx : ctx.fits room) (q : BitStream) : (decode ctx q).inOrder q room := by
  cases ctx with
  | head wrap => exact decodeField_inOrder (headInstr_fits wrap) _ _
  | blockHeader => exact decodeField_inOrder blockInstr_fits _ _
  | flags | time | os | xlen | hcrc | dictid | adler32 | crc32 | isize | dynCounts | clLen =>
    exact decodeField_inOrder (fun _ => by trivial) _ _
  | storedLen => exact (decodeField_inOrder (fun _ => by trivial) _ _).of_advances (q.drop_advances _)
  | extra | name | comment => exact decodeRun_inOrder (by trivial) q
  | storedData n =>
    have hlen : (q.input.take n).length ≤ room := (List.length_take_le n q.input).trans hctx
    exact decodeRun_inOrder (by exact hlen) q
  | codeLengths c =>
    simp only [decode]
    obtain ⟨k, q', cw, e, hd, hp, -⟩ | ⟨q', hd, hp, -⟩ | ⟨hd, -⟩ := decodePeek_cases c q
    · rw [hd]; exact (decodeClSymbol_inOrder cw e q').of_advances hp.advances
    · rw [hd]; exact hp.advances
    · rw [hd]; trivial
  | litLen c =>
    simp only [decode]
    obtain ⟨k, q', cw, e, hd, hp, -⟩ | ⟨q', hd, hp, -⟩ | ⟨hd, -⟩ := decodePeek_cases c q
    · rw [hd]; exact (decodeLlSymbol_inOrder cw e _).of_advances (hp.advances.trans (q'.drop_advances _))
    · rw [hd]; exact hp.advances
    · rw [hd]; trivial
  | distance c =>
    simp only [decode]
    obtain ⟨k, q', cw, e, hd, hp, -⟩ | ⟨q', hd, hp, -⟩ | ⟨hd, -⟩ := decodePeek_cases c q
    · rw [hd]; exact (decodeDistSymbol_inOrder cw e _).of_advances (hp.advances.trans (q'.drop_advances _))
    · rw [hd]; exact hp.advances
    · rw [hd]; trivial

end

namespace Machine

/-! ### What a rule of the mode loop does to the call's input and output -/

/-- What the call has left of its input and has written of its output. -/
def State.callRegisters (s : State) : Bool × List Byte × Nat × List Byte × Nat :=
  (s.running, s.src.input, s.src.taken, s.outBuf, s.left)

/-- The call goes on with input taken in order and output appended within its space (20_memory.md R81, R84). -/
structure Progress (s u : State) : Prop where
  running : u.running = s.running
  input : s.src.Advances u.src
  output : s.outBuf <+: u.outBuf
  space : u.outBuf.length + u.left = s.outBuf.length + s.left

theorem Progress.of_same {s u : State} (h : u.callRegisters = s.callRegisters) : Progress s u := by
  simp only [State.callRegisters, Prod.mk.injEq] at h
  obtain ⟨hrunning, hinput, htaken, hout, hleft⟩ := h
  exact ⟨hrunning, .of_same hinput htaken, hout ▸ List.prefix_rfl, by rw [hout, hleft]⟩

theorem Progress.trans {s u v : State} (h : Progress s u) (h' : Progress u v) : Progress s v :=
  ⟨h'.running.trans h.running, h.input.trans h'.input, h.output.trans h'.output, h'.space.trans h.space⟩

theorem Progress.withSrc {s : State} {q : BitStream} (h : s.src.Advances q) : Progress s { s with src := q } :=
  ⟨rfl, h, List.prefix_rfl, rfl⟩

/-- What is appended takes its length from the space. -/
theorem Progress.appends {s u : State} {data : List Byte} (hrunning : u.running = s.running) (hsrc : u.src = s.src)
    (hout : u.outBuf = s.outBuf ++ data) (hleft : u.left = s.left - data.length) (hfit : data.length ≤ s.left) :
    Progress s u where
  running := hrunning
  input := hsrc ▸ .of_same rfl rfl
  output := hout ▸ List.prefix_append _ _
  space := by rw [hout, hleft, List.length_append]; omega

/-- The call goes on, or ends with LEAVE after such a rule (46_host.md R450). -/
inductive Proceeds (s t : State) : Prop where
  | goesOn (h : Progress s t)
  | leaves (u : State) (r : Status) (h : Progress s u) (ht : t = leave r u)

theorem Proceeds.of_same {s t : State} (h : t.callRegisters = s.callRegisters) : Proceeds s t := .goesOn (.of_same h)

theorem Proceeds.leave (r : Status) (s : State) : Proceeds s (leave r s) := .leaves s r (.of_same rfl) rfl

theorem Progress.proceeds {s u t : State} (h : Progress s u) (h' : Proceeds u t) : Proceeds s t := by
  cases h' with
  | goesOn h' => exact .goesOn (h.trans h')
  | leaves v r h' ht => exact .leaves v r (h.trans h') ht

/-- What was done before to anything but the call's registers is part of the rule. -/
theorem Proceeds.of_registers {s u t : State} (h : Proceeds u t) (hu : u.callRegisters = s.callRegisters) :
    Proceeds s t :=
  (Progress.of_same hu).proceeds h

/-! ### The wrapper elements -/

theorem checkTrailer_callRegisters (v : U32) (s : State) : (checkTrailer v s).callRegisters = s.callRegisters := by
  unfold checkTrailer
  split <;> rfl

/-! ### The block elements -/

theorem stopForTrees_proceeds {s u : State} (h : u.callRegisters = s.callRegisters) : Proceeds s (stopForTrees u) := by
  unfold stopForTrees
  split
  · exact .leaves u _ (.of_same h) rfl
  · exact .of_same h

theorem pushLens_callRegisters (len : BitVec 4) (n : Nat) (s : State) :
    (pushLens len n s).callRegisters = s.callRegisters := by
  obtain ⟨l, hl⟩ := pushLens_eq len n s
  rw [hl]
  rfl

theorem repeatLens_callRegisters (len : BitVec 4) (cnt : Nat) (s : State) :
    (repeatLens len cnt s).callRegisters = s.callRegisters := by
  unfold repeatLens
  split
  · rfl
  · exact pushLens_callRegisters len cnt s

theorem buildClTable_callRegisters (s : State) : (buildClTable s).callRegisters = s.callRegisters := by
  unfold buildClTable
  obtain ⟨l, hl⟩ := zeroClLens_eq ((List.range 19).drop s.ncnt) s
  rw [hl]
  dsimp only
  split <;> rfl

theorem buildTables_proceeds (s : State) : Proceeds s (buildTables s) := by
  unfold buildTables
  split
  · exact .of_same rfl
  split
  · exact .of_same rfl
  dsimp only
  split
  · exact .of_same rfl
  · exact stopForTrees_proceeds rfl

theorem execStoredData_proceeds {data : List Byte} {s : State} (h : data.length ≤ s.left) :
    Proceeds s { memWriteAll data s with length := s.length - data.length } :=
  .goesOn (.appends (by simp) (by simp) (memWriteAll_outBuf data s) (memWriteAll_left data s) h)

/-! ### The symbol elements -/

theorem litRule_proceeds (s : State) : Proceeds s (litRule s) := by
  obtain ⟨-, h⟩ | ⟨hleft, h⟩ := litRule_cases s
  · rw [h]; exact .leave .ok s
  · rw [h]; exact .goesOn (.appends rfl rfl rfl rfl hleft)

/-- A back-reference copy appends its bytes one by one (45_window.md R408). -/
theorem copyBack_outBuf_prefix (d n : Nat) (s : State) : s.outBuf <+: (copyBack d n s).outBuf := by
  induction n generalizing s with
  | zero => exact List.prefix_rfl
  | succ n ih => exact (List.prefix_append _ _).trans (ih (memWrite (hist d s) s))

theorem copyBack_progress {n : Nat} {s : State} (d : Nat) (h : n ≤ s.left) : Progress s (copyBack d n s) where
  running := copyBack_running d n s
  input := copyBack_src d n s ▸ .of_same rfl rfl
  output := copyBack_outBuf_prefix d n s
  space := by rw [copyBack_outBuf_length, copyBack_left]; omega

theorem matchRule_proceeds (s : State) : Proceeds s (matchRule s) := by
  obtain ⟨-, h⟩ | ⟨-, -, h⟩ | ⟨-, -, h⟩ := matchRule_cases s
  · rw [h]; exact .leave .ok s
  · rw [h]; exact .of_same rfl
  · rw [h]; exact .goesOn ((copyBack_progress s.offset (Nat.min_le_right _ _)).trans (.of_same rfl))

theorem finishDistance_proceeds (x : Nat) (s : State) : Proceeds s (finishDistance x s) := by
  unfold finishDistance
  dsimp only
  split
  · exact .of_same rfl
  · exact (matchRule_proceeds _).of_registers rfl

theorem distanceElement_proceeds (k : Fin 30) (x : Nat) (s : State) : Proceeds s (distanceElement k x s) :=
  (finishDistance_proceeds x (startDistance k s)).of_registers rfl

/-! ### Every element, and the modes that read none -/

/-- Every stream element whose stored bytes fit the output space is such a rule. -/
theorem exec_proceeds {i : Instr} {s : State} (hi : i.isCommand = false) (hfit : i.fits s.left) :
    ∃ t, exec i s = .next t ∧ Proceeds s t := by
  cases i with
  | init | reset | inflate | setDictionary | getHeader | teardown => cases hi
  | zlibHeader | gzipCmFlg | gzipName | gzipComment | gzipHcrc | gzipIsize | dynCounts =>
    refine ⟨_, rfl, .of_same ?_⟩
    repeat' split
    all_goals rfl
  | zlibAdler32 v | gzipCrc32 v => exact ⟨_, rfl, .of_same (checkTrailer_callRegisters v s)⟩
  | blockFixed => exact ⟨_, rfl, stopForTrees_proceeds rfl⟩
  | storedLenNlen =>
    refine ⟨_, rfl, ?_⟩
    split
    · exact .of_same rfl
    · exact stopForTrees_proceeds rfl
  | storedData => exact ⟨_, rfl, execStoredData_proceeds hfit⟩
  | clLength => exact ⟨_, rfl, .of_same (pushLens_callRegisters _ _ _)⟩
  | clRepeatPrev =>
    refine ⟨_, rfl, .of_same ?_⟩
    split
    · rfl
    · exact repeatLens_callRegisters _ _ _
  | clZeroShort | clZeroLong => exact ⟨_, rfl, .of_same (repeatLens_callRegisters _ _ _)⟩
  | literal => exact ⟨_, rfl, (litRule_proceeds _).of_registers rfl⟩
  | distance0 | distance1 | distance2 | distance3 | distance4 | distance5 | distance6 | distance7 | distance8
  | distance9 | distance10 | distance11 | distance12 | distance13 | distance14 | distance15 | distance16 | distance17
  | distance18 | distance19 | distance20 | distance21 | distance22 | distance23 | distance24 | distance25 | distance26
  | distance27 | distance28 | distance29 => exact ⟨_, rfl, distanceElement_proceeds _ _ s⟩
  | _ => exact ⟨_, rfl, .of_same rfl⟩

theorem resumeLength_proceeds {s t : State} (h : resumeLength s = .next t) : Proceeds s t := by
  unfold resumeLength at h
  obtain ⟨k, q, hq, hp, -⟩ | ⟨q, hq, hp, -⟩ | ⟨hq, -⟩ := s.src.need_cases s.extra <;> rw [hq] at h <;> cases h
  · exact (Progress.withSrc hp.advances).proceeds (.of_same rfl)
  · exact (Progress.withSrc hp.advances).proceeds (.leave .ok _)

theorem resumeDistance_proceeds {s t : State} (h : resumeDistance s = .next t) : Proceeds s t := by
  unfold resumeDistance at h
  obtain ⟨k, q, hq, hp, -⟩ | ⟨q, hq, hp, -⟩ | ⟨hq, -⟩ := s.src.need_cases s.extra <;> rw [hq] at h <;> cases h
  · exact (Progress.withSrc hp.advances).proceeds (finishDistance_proceeds _ _)
  · exact (Progress.withSrc hp.advances).proceeds (.leave .ok _)

theorem dictRule_proceeds (s : State) : Proceeds s (dictRule s) := by
  unfold dictRule
  split
  · exact .of_same rfl
  · exact .leave .needDict s

theorem typeRule_proceeds (s : State) : Proceeds s (typeRule s) := by
  unfold typeRule
  split
  · exact .leave .ok s
  · exact .of_same rfl

/-- A mode that moves by itself takes no input it does not need and writes within the space (46_host.md R448). -/
theorem action_move_proceeds {s t : State} (h : action s = .move (.next t)) : Proceeds s t := by
  unfold action at h
  cases hm : s.mode <;> simp only [hm] at h
  case lenext => exact resumeLength_proceeds (Action.move.inj h)
  case distext => exact resumeDistance_proceeds (Action.move.inj h)
  case copy =>
    split at h
    · cases h
      exact .of_same rfl
    split at h <;> cases h
    exact .leave .ok s
  all_goals repeat' split at h
  all_goals cases h
  case lenlens => exact .of_same (buildClTable_callRegisters s)
  case codelens => exact buildTables_proceeds s
  case dict => exact dictRule_proceeds s
  case type => exact typeRule_proceeds s
  case matched => exact matchRule_proceeds s
  case lit => exact litRule_proceeds s
  case done | bad | mem => exact .leave _ s
  all_goals exact .of_same rfl

/-- A mode asks for no more stored bytes than the output has space for (42_blocks.md R254). -/
theorem action_read_fits {s : State} {ctx : Context} (h : action s = .read ctx) : ctx.fits s.left := by
  unfold action at h
  cases hm : s.mode <;> simp only [hm] at h
  all_goals repeat' split at h
  all_goals cases h
  case copy => exact Nat.min_le_right _ _
  all_goals trivial

theorem starve_proceeds {s : State} {q : BitStream} (h : s.src.Advances q) (p : Option Pending) :
    Proceeds s (starve p q s) := by
  have hq : Progress s { s with src := q } := .withSrc h
  cases p with
  | none => exact .leaves _ .ok hq rfl
  | some p =>
    cases p with
    | length k => exact .leaves (startLength k { s with src := q }) .ok (hq.trans (.of_same rfl)) rfl
    | distance k => exact .leaves (startDistance k { s with src := q }) .ok (hq.trans (.of_same rfl)) rfl

/-- A step of a call takes input in order and appends output within its space, then goes on or leaves. -/
theorem step_proceeds {s t : State} (hr : s.running = true) (h : step s = .next t) : Proceeds s t := by
  cases step_cases h with
  | idle hr' | command _ _ hr' => rw [hr] at hr'; cases hr'
  | element ctx i q _ ha hd ht =>
    have hi : i.isCommand = false := by simpa [hd, noCommand] using decode_noCommand ctx s.src
    have hin := decode_inOrder (action_read_fits ha) s.src
    rw [hd] at hin
    obtain ⟨hq, hfit⟩ := hin
    obtain ⟨t', ht', hs⟩ := exec_proceeds (s := { s with src := q }) hi hfit
    cases ht'.symm.trans ht
    exact (Progress.withSrc hq).proceeds hs
  | starved ctx p q _ ha hd ht =>
    have hin := decode_inOrder (action_read_fits ha) s.src
    rw [hd] at hin
    exact ht ▸ starve_proceeds hin p
  | move _ ha => exact action_move_proceeds ha

/-- The host gets the consumed count and the output LEAVE finds (46_host.md R450, R451). -/
theorem leave_reply (r : Status) (s : State) : ∃ st, (leave r s).reply = some ⟨st, s.src.taken, s.outBuf⟩ := by
  obtain ⟨-, -, -, h, -⟩ | ⟨h, -⟩ := leave_cases r s
  · exact ⟨.memError, by simp [h]⟩
  · exact ⟨callStatus r s.src.taken s.outBuf.length s.flush, by rw [h]; split <;> simp⟩

/-- Settles O58: a call that goes on has the progress of its rule; one that ends replies what LEAVE found. -/
theorem inputInOrderOutputKept : Obligations.InputInOrderOutputKept := by
  intro s t hr hs
  cases step_proceeds hr hs with
  | goesOn h =>
    have hrunning : t.running = true := h.running.trans hr
    exact ⟨fun _ => ⟨h.input, h.output, h.space⟩, fun hf => by simp [hrunning] at hf⟩
  | leaves u r h ht =>
    subst ht
    obtain ⟨st, hreply⟩ := leave_reply r u
    refine ⟨fun hf => by simp at hf, fun _ => ⟨_, hreply, h.output, ?_, h.input.taken_bounds⟩⟩
    exact h.space ▸ Nat.le_add_right _ _

end Machine

end Sys2Proof
end

section
/-! Bits and streams (20_memory.md R85 to R87, 40_bitstream.md R160 to R165): how the encoder's bit lists split and which values they determine, and that pulling, dropping and taking keep the stream a `BitStream` stands for. -/

namespace Sys2Proof

/-! ### Bit lists -/

@[simp] theorem bitsLsb_zero (v : Nat) : bitsLsb 0 v = [] := rfl

theorem bitsLsb_add (m n v : Nat) : bitsLsb (m + n) v = bitsLsb m v ++ bitsLsb n (v >>> m) := by
  simp [bitsLsb, List.range_add, Nat.testBit_shiftRight]

/-- A field shows only the bits within its width. -/
theorem bitsLsb_congr {n a b : Nat} (h : a % 2 ^ n = b % 2 ^ n) : bitsLsb n a = bitsLsb n b := by
  refine List.map_congr_left fun i hi => ?_
  have hi : i < n := List.mem_range.1 hi
  simpa [Nat.testBit_mod_two_pow, hi] using congrArg (Nat.testBit · i) h

theorem bitsLsb_inj {n a b : Nat} (ha : a < 2 ^ n) (hb : b < 2 ^ n) (h : bitsLsb n a = bitsLsb n b) : a = b := by
  have hbit : ∀ i < n, a.testBit i = b.testBit i := by simpa [bitsLsb] using h
  refine Nat.eq_of_testBit_eq fun i => ?_
  rcases Nat.lt_or_ge i n with hi | hi
  · exact hbit i hi
  · have hpow : 2 ^ n ≤ 2 ^ i := Nat.pow_le_pow_right (by omega) hi
    rw [Nat.testBit_lt_two_pow (ha.trans_le hpow), Nat.testBit_lt_two_pow (hb.trans_le hpow)]

theorem bitsLsb_drop (k n v : Nat) : (bitsLsb n v).drop k = bitsLsb (n - k) (v >>> k) := by
  rcases Nat.le_total k n with hk | hk
  · obtain ⟨m, rfl⟩ := Nat.exists_eq_add_of_le hk
    simp [bitsLsb_add]
  · simp [hk]

theorem bitsLsb_take {k n : Nat} (hk : k ≤ n) (v : Nat) : (bitsLsb n v).take k = bitsLsb k v := by
  obtain ⟨m, rfl⟩ := Nat.exists_eq_add_of_le hk
  simp [bitsLsb_add]

theorem revBits_lt (n x : Nat) : revBits n x < 2 ^ n := by
  induction n generalizing x with
  | zero => simp [revBits]
  | succ n ih =>
    have hbit : x % 2 * 2 ^ n ≤ 1 * 2 ^ n := Nat.mul_le_mul_right _ (by omega)
    have := ih (x / 2)
    simp only [revBits, pow_succ]
    omega

/-- `rev_n` writes a field's bits the other way round (43_huffman.md R305). -/
theorem bitsLsb_revBits (n x : Nat) : bitsLsb n (revBits n x) = (bitsLsb n x).reverse := by
  induction n generalizing x with
  | zero => rfl
  | succ n ih =>
    have hlow : bitsLsb n (revBits (n + 1) x) = bitsLsb n (revBits n (x / 2)) :=
      bitsLsb_congr (by simp [revBits])
    have hhigh : revBits (n + 1) x >>> n = x % 2 := by
      rw [revBits, Nat.shiftRight_eq_div_pow, Nat.add_comm, Nat.add_mul_div_right _ _ (Nat.two_pow_pos n),
        Nat.div_eq_of_lt (revBits_lt n (x / 2)), Nat.zero_add]
    have hsplit : bitsLsb (n + 1) x = bitsLsb 1 x ++ bitsLsb n (x / 2) := by
      rw [Nat.add_comm, bitsLsb_add, Nat.shiftRight_one]
    rw [bitsLsb_add, hlow, hhigh, hsplit, List.reverse_append, ih]
    simp [bitsLsb]

/-! ### Byte lists -/

@[simp] theorem byteStream_nil : byteStream [] = [] := rfl

@[simp] theorem byteStream_cons (b : Byte) (bs : List Byte) :
    byteStream (b :: bs) = bitsLsb 8 b.toNat ++ byteStream bs := rfl

@[simp] theorem byteStream_append (as bs : List Byte) : byteStream (as ++ bs) = byteStream as ++ byteStream bs :=
  List.flatMap_append

theorem byteStream_drop (n : Nat) (data : List Byte) : byteStream (data.drop n) = (byteStream data).drop (8 * n) := by
  induction n generalizing data with
  | zero => rfl
  | succ n ih =>
    cases data with
    | nil => simp
    | cons b bs => simp [ih, Nat.mul_succ, Nat.add_comm (8 * n), ← List.drop_drop]

/-- Whole bytes at the head of a byte stream are its first bytes. -/
theorem eq_append_of_byteStream_eq {input data : List Byte} {rest : List Bool}
    (h : byteStream input = byteStream data ++ rest) : ∃ more, input = data ++ more ∧ byteStream more = rest := by
  induction data generalizing input with
  | nil => exact ⟨input, rfl, h⟩
  | cons b bs ih =>
    cases input with
    | nil =>
      have hlength := congrArg List.length h
      simp only [byteStream_length, List.length_append, List.length_cons, List.length_nil] at hlength
      omega
    | cons a as =>
      rw [byteStream_cons, byteStream_cons, List.append_assoc] at h
      obtain ⟨hbyte, htail⟩ := List.append_inj h (by simp)
      obtain ⟨more, rfl, hmore⟩ := ih htail
      exact ⟨more, by rw [BitVec.eq_of_toNat_eq (bitsLsb_inj a.isLt b.isLt hbyte), List.cons_append], hmore⟩

/-- A byte taken out of a wider number shows that number's low 8 bits. -/
theorem bitsLsb_byte (v : Nat) : bitsLsb 8 (v % 256) = bitsLsb 8 v := bitsLsb_congr (by simp)

theorem byteStream_le16 (v : U16) : byteStream (le16 v) = bitsLsb 16 v.toNat := by
  simp [le16, bitsLsb_add 8 8, bitsLsb_byte]

theorem byteStream_le32 (v : U32) : byteStream (le32 v) = bitsLsb 32 v.toNat := by
  simp [le32, bitsLsb_add 8 24, bitsLsb_add 8 16, bitsLsb_add 8 8, bitsLsb_byte, ← Nat.shiftRight_add]

/-! ### `bswap32` (20_memory.md R88) -/

theorem getLsbD_bswap32 (v : U32) {i : Nat} (hi : i < 32) :
    (bswap32 v).getLsbD i = v.getLsbD (24 - i / 8 * 8 + i % 8) := by
  interval_cases i <;> simp [bswap32]

@[simp] theorem bswap32_bswap32 (v : U32) : bswap32 (bswap32 v) = v := by
  refine BitVec.eq_of_getLsbD_eq fun i hi => ?_
  rw [getLsbD_bswap32 _ hi, getLsbD_bswap32 _ (by omega)]
  congr 1
  omega

/-- Most significant byte first: the bytes of the number with its bytes swapped (20_memory.md R87). -/
theorem le32_bswap32 (v : U32) : le32 (bswap32 v) = (le32 v).reverse := by
  have hbyte (k : Nat) (hk : k = 0 ∨ k = 8 ∨ k = 16 ∨ k = 24) :
      (bswap32 v >>> k).setWidth 8 = (v >>> (24 - k)).setWidth 8 := by
    ext i hi
    simp only [BitVec.getElem_setWidth, BitVec.getLsbD_ushiftRight]
    rw [getLsbD_bswap32 v (by omega)]
    congr 1
    omega
  simpa [le32] using ⟨hbyte 0 (by simp), hbyte 8 (by simp), hbyte 16 (by simp), hbyte 24 (by simp)⟩

theorem byteStream_be32 (v : U32) : byteStream (le32 v).reverse = bitsLsb 32 (bswap32 v).toNat := by
  rw [← le32_bswap32, byteStream_le32]

/-! ### The stream of an accumulator -/

namespace BitStream

theorem pullByte_stream {q : BitStream} (h : q.wf) (hb : q.bits ≤ 24) (b : Byte) (rest : List Byte) :
    (q.pullByte b rest).stream = bitsLsb q.bits q.hold.toNat ++ byteStream (b :: rest) := by
  have hlow : bitsLsb q.bits (q.pullByte b rest).hold.toNat = bitsLsb q.bits q.hold.toNat :=
    bitsLsb_congr (by simp [pullByte_hold h hb])
  have hhigh : (q.pullByte b rest).hold.toNat >>> q.bits = b.toNat := by
    rw [pullByte_hold h hb, Nat.shiftRight_eq_div_pow, Nat.add_mul_div_right _ _ (Nat.two_pow_pos _),
      Nat.div_eq_of_lt h.2, Nat.zero_add]
  simp [stream, bitsLsb_add, hlow, hhigh]

theorem drop_stream {n : Nat} {q : BitStream} (hn : n ≤ q.bits) : (q.drop n).stream = q.stream.drop n := by
  rw [stream, stream, List.drop_append_of_le_length (by simpa using hn), bitsLsb_drop]
  simp

/-- BYTEBITS discards what is held before the byte boundary (40_bitstream.md R165). -/
theorem byteBits_stream (q : BitStream) : q.byteBits.stream = q.stream.drop (q.bits % 8) :=
  drop_stream (Nat.mod_le _ _)

theorem takeBytes_stream {q : BitStream} (hb : q.bits = 0) (n : Nat) :
    (q.takeBytes n).stream = q.stream.drop (8 * n) := by
  simp [stream, hb, byteStream_drop]

/-- The low bits held are the first bits of the stream (20_memory.md R85). -/
theorem bitsLsb_hold {q : BitStream} {n : Nat} (hn : n ≤ q.bits) : bitsLsb n q.hold.toNat = q.stream.take n := by
  rw [stream, List.take_append_of_le_length (by simpa using hn), bitsLsb_take hn]

theorem stream_length (q : BitStream) : q.stream.length = q.bits + 8 * q.input.length := by simp [stream]

/-- NEED pulls without losing a bit of the stream (40_bitstream.md R162). -/
theorem need_held_stream {n : Nat} {q q' : BitStream} (hq : q.wf) (h : q.need n = .held q') :
    q'.stream = q.stream := by
  suffices hfrom : ∀ l q, q.input = l → q.wf → needFrom n l q = .held q' → q'.stream = q.stream from
    hfrom _ q rfl hq h
  intro l
  induction l with
  | nil =>
    intro q _ _ h
    simp only [needFrom] at h
    split at h <;> cases h
    rfl
  | cons b rest ih =>
    intro q hi hq h
    simp only [needFrom] at h
    split at h
    · cases h; rfl
    split at h
    · cases h
    next hb =>
      rw [ih _ rfl (pullByte_wf hq (by omega) b rest) h, pullByte_stream hq (by omega), stream, hi]

end BitStream

end Sys2Proof
end

section
/-! Fields and codewords found where they were written: NEED holds a field that lies ahead in the stream, its bits are read back (30_encoding.md R111, R112), and DecodePeek finds the codeword ahead (43_huffman.md R305, R315). -/

namespace Sys2Proof

namespace BitStream

/-! ### Fields -/

/-- `q'` holds the next `n` bits of `q`, and no more than pulling whole bytes for them brings. -/
structure Holds (n : Nat) (q q' : BitStream) : Prop where
  wf : q'.wf
  stream : q'.stream = q.stream
  le : n ≤ q'.bits
  lt : q'.bits < max q.bits n + 8
  whole : q'.bits % 8 = q.bits % 8

/-- Which fields NEED can hold without a pull past 24 bits (40_bitstream.md R169). -/
def CanNeed (n : Nat) (q : BitStream) : Prop := n ≤ 25 ∨ q.bits % 8 = 0 ∧ n ≤ 32

/-- NEED holds a field that lies ahead (40_bitstream.md R162). -/
theorem need_holds {n : Nat} {q : BitStream} (hq : q.wf) (hcan : q.CanNeed n) (hn : n ≤ q.stream.length) :
    ∃ q', q.need n = .held q' ∧ Holds n q q' := by
  rw [stream_length] at hn
  obtain ⟨k, q', hheld, hp, hle, hlt⟩ | ⟨q', -, hp, hlt⟩ | ⟨-, k, -, hfull, hlt⟩ := q.need_cases n
  · have hbits := hp.bits
    exact ⟨q', hheld, hp.wf hq, need_held_stream hq hheld, hle, by omega, by omega⟩
  · have hbits := hp.bits
    omega
  · unfold CanNeed at hcan
    omega

/-- A field `k` bits ahead is read at position `k` of what is held (40_bitstream.md R163). -/
theorem Holds.field {n m : Nat} {q q' : BitStream} (h : Holds n q q') {x : BitVec m} {before rest : List Bool}
    (hs : q.stream = before ++ (bitsLsb m x.toNat ++ rest)) (hn : before.length + m ≤ n) :
    (q'.hold >>> before.length).setWidth m = x := by
  have hle := h.le
  have hheld : bitsLsb (before.length + m) q'.hold.toNat = before ++ bitsLsb m x.toNat := by
    rw [bitsLsb_hold (by omega), h.stream, hs, ← List.append_assoc]
    exact List.take_left' (by simp)
  rw [bitsLsb_add] at hheld
  have hfield := (List.append_inj hheld (by simp)).2
  refine BitVec.eq_of_toNat_eq (bitsLsb_inj (BitVec.isLt _) x.isLt ?_)
  rw [← hfield]
  exact bitsLsb_congr (by simp)

/-- The field at the head of the stream. -/
theorem Holds.firstField {n m : Nat} {q q' : BitStream} (h : Holds n q q') {x : BitVec m} {rest : List Bool}
    (hs : q.stream = bitsLsb m x.toNat ++ rest) (hn : m ≤ n) : q'.hold.setWidth m = x := by
  simpa using h.field (before := []) hs (by simpa using hn)

/-- A field of whole bytes read with nothing held before is all that is held. -/
theorem Holds.hold_lt {n : Nat} {q q' : BitStream} (h : Holds n q q') (hq : q.bits = 0) (hn : n % 8 = 0) :
    q'.hold.toNat < 2 ^ n := by
  obtain ⟨⟨-, hlt⟩, -, hle, hmax, hwhole⟩ := h
  rwa [show q'.bits = n by omega] at hlt

end BitStream

/-! ### What the decoder answers -/

/-- The answer is the element `i`, and the bits `s` are left in the stream. -/
def Fetched.yields (r : Fetched) (i : Instr) (s : List Bool) : Prop :=
  ∃ q', r = .element i q' ∧ q'.wf ∧ q'.stream = s

theorem decodeField_yields {n : Nat} {f : BitStream → Instr} {q : BitStream} {i : Instr} {bits rest : List Bool}
    (hq : q.wf) (hcan : q.CanNeed n) (hs : q.stream = bits ++ rest) (hbits : bits.length = n)
    (hf : ∀ q', q.Holds n q' → f q' = i) : (decodeField n f q).yields i q.stream := by
  obtain ⟨q', hheld, h⟩ := BitStream.need_holds hq hcan (by rw [hs, List.length_append]; omega)
  exact ⟨q', by simp [decodeField, hheld, hf q' h], h.wf, h.stream⟩

theorem decodeExtra_yields {m : Nat} {p : Pending} {f : Nat → Instr} {q : BitStream} {x : Nat} {rest : List Bool}
    (hq : q.wf) (hm : m ≤ 25) (hx : x < 2 ^ m) (hs : q.stream = bitsLsb m x ++ rest) :
    (decodeExtra m p f q).yields (f x) q.stream := by
  obtain ⟨q', hheld, h⟩ := BitStream.need_holds hq (.inl hm) (show m ≤ _ by simp [hs])
  have hx' : q'.peekBits m = x := by
    have hfield := h.firstField (x := BitVec.ofNat m x) (rest := rest)
      (by rwa [BitVec.toNat_ofNat, Nat.mod_eq_of_lt hx]) le_rfl
    simpa [BitStream.peekBits, Nat.mod_eq_of_lt hx] using congrArg BitVec.toNat hfield
  exact ⟨q', by simp [decodeExtra, hheld, hx'], h.wf, h.stream⟩

/-- A run at the head of the input, taken whole (30_encoding.md R111: RAW and STRZ). -/
theorem decodeRun_yields {f : List Byte → Instr} {q : BitStream} {data : List Byte} (hq : q.wf) (hb : q.bits = 0)
    (hdata : data ≠ []) : (decodeRun data f q).yields (f data) (q.stream.drop (8 * data.length)) :=
  ⟨q.takeBytes data.length, by simp [decodeRun, hdata], BitStream.takeBytes_wf hq _,
    BitStream.takeBytes_stream hb _⟩

/-! ### Codewords -/

section

variable {ε : Type} {c : Code ε} {cw : Codeword} {e : ε}

/-- No codeword of such a code begins another one (43_huffman.md R304). -/
theorem Code.prefixFree.eq_of_prefix (h : c.prefixFree) {p q : Codeword × ε} (hp : p ∈ c) (hq : q ∈ c) {n : Nat}
    (hlen : p.1.len = q.1.len + n) (hcode : p.1.code / 2 ^ n = q.1.code) : p = q := by
  obtain ⟨hforth, hback⟩ := h
  obtain ⟨i, hi, rfl⟩ := List.mem_iff_getElem.1 hp
  obtain ⟨j, hj, rfl⟩ := List.mem_iff_getElem.1 hq
  rcases Nat.lt_trichotomy i j with hij | rfl | hij
  · exact absurd hcode (List.pairwise_iff_getElem.1 hforth i j hi hj hij n hlen)
  · rfl
  · exact absurd hcode (List.pairwise_iff_getElem.1 hback j i hj hi hij n hlen)

theorem Code.mem_of_lookup (h : c.lookup cw = some e) : (cw, e) ∈ c := by
  obtain ⟨⟨⟨len, code⟩, e'⟩, hfind, rfl⟩ := Option.map_eq_some_iff.1 h
  have hcw := List.find?_some hfind
  simp only [Bool.and_eq_true, Nat.beq_eq] at hcw
  obtain ⟨rfl, rfl⟩ := hcw
  exact List.mem_of_find?_eq_some hfind

/-- A codeword of such a code reads as its entry. -/
theorem Code.reads.lookup (h : c.reads cw e) : c.lookup cw = some e := by
  obtain ⟨hmem, hfree⟩ := h
  cases hlook : c.lookup cw with
  | none =>
    simp only [Code.lookup, Option.map_eq_none_iff, List.find?_eq_none] at hlook
    simpa using hlook _ hmem
  | some e' =>
    have := hfree.eq_of_prefix (Code.mem_of_lookup hlook) hmem (n := 0) rfl (by simp)
    rw [(Prod.mk.inj this).2]

/-- What a codeword begins with, short of all of it, is not in the code. -/
theorem Code.reads.lookup_prefix (h : c.reads cw e) {w : Nat} (hw : w < cw.len) :
    c.lookup ⟨w, cw.code / 2 ^ (cw.len - w)⟩ = none := by
  refine Option.eq_none_iff_forall_ne_some.2 fun e' hlook => ?_
  have := h.2.eq_of_prefix h.1 (Code.mem_of_lookup hlook) (n := cw.len - w) (by simp only; omega) rfl
  have hlen : cw.len = w := congrArg (·.1.len) this
  omega

/-- The `w` bits held at the head of a codeword stand for its first `w` bits (43_huffman.md R305). -/
theorem heldCodeword_of_stream {q : BitStream} {rest : List Bool} (hcode : cw.code < 2 ^ cw.len)
    (hs : q.stream = cw.bits ++ rest) {w : Nat} (hw : w ≤ cw.len) (hb : w ≤ q.bits) :
    heldCodeword q.hold.toNat w = ⟨w, cw.code / 2 ^ (cw.len - w)⟩ := by
  have hprefix : (bitsLsb cw.len cw.code).reverse.take w = (bitsLsb w (cw.code >>> (cw.len - w))).reverse := by
    rw [List.take_reverse, bitsLsb_length, bitsLsb_drop, Nat.sub_sub_self hw]
  have hheld : bitsLsb w (q.hold.toNat % 2 ^ w) = bitsLsb w q.hold.toNat := bitsLsb_congr (Nat.mod_mod _ _)
  have hlt : cw.code / 2 ^ (cw.len - w) < 2 ^ w := by
    rwa [Nat.div_lt_iff_lt_mul (Nat.two_pow_pos _), ← pow_add, Nat.add_sub_cancel' hw]
  rw [heldCodeword, Codeword.mk.injEq]
  refine ⟨rfl, bitsLsb_inj (revBits_lt _ _) hlt ?_⟩
  rw [bitsLsb_revBits, hheld, BitStream.bitsLsb_hold hb, hs, List.take_append_of_le_length (by simpa using hw),
    Codeword.bits, hprefix, List.reverse_reverse, Nat.shiftRight_eq_div_pow]

theorem Codeword.wellFormed_iff : cw.wellFormed = true ↔ 1 ≤ cw.len ∧ cw.len ≤ 15 ∧ cw.code < 2 ^ cw.len := by
  change _ ↔ 1 ≤ cw.len ∧ cw.len ≤ Config.maxBits ∧ _
  simp [Codeword.wellFormed, and_assoc]

section

variable {q : BitStream} {rest : List Bool}

/-- While the codeword ahead is held in part only, no codeword is found. -/
theorem Code.reads.held_none (h : c.reads cw e) (hcw : cw.wellFormed = true) (hs : q.stream = cw.bits ++ rest)
    (hb : q.bits < cw.len) : c.held q = none := by
  obtain ⟨-, -, hcode⟩ := Codeword.wellFormed_iff.1 hcw
  refine Code.firstMatch_none.2 fun w _ hw => ?_
  rw [heldCodeword_of_stream hcode hs (by omega) (by omega)]
  exact h.lookup_prefix (by omega)

/-- Once all of the codeword ahead is held, it is the one found. -/
theorem Code.reads.held_some (h : c.reads cw e) (hcw : cw.wellFormed = true) (hs : q.stream = cw.bits ++ rest)
    (hb : cw.len ≤ q.bits) : c.held q = some (cw, e) := by
  obtain ⟨hpos, hmax, hcode⟩ := Codeword.wellFormed_iff.1 hcw
  have hself : heldCodeword q.hold.toNat cw.len = cw := by simpa using heldCodeword_of_stream hcode hs le_rfl hb
  cases hheld : c.held q with
  | none =>
    have := Code.firstMatch_none.1 hheld cw.len hpos (by simp only [Config.maxBits]; omega)
    rw [hself, h.lookup] at this
    cases this
  | some r =>
    obtain ⟨w, hw1, hw2, hr, hlook, hbefore⟩ := Code.firstMatch_some hheld
    rcases Nat.lt_trichotomy w cw.len with hw | rfl | hw
    · rw [hr, heldCodeword_of_stream hcode hs hw.le (by omega), h.lookup_prefix hw] at hlook
      cases hlook
    · rw [hself] at hr
      rw [hr, h.lookup] at hlook
      exact congrArg some (Prod.ext hr (Option.some.inj hlook).symm)
    · have := hbefore cw.len hpos hw
      rw [hself, h.lookup] at this
      cases this

/-- DecodePeek finds the codeword ahead and keeps the stream (43_huffman.md R315). -/
theorem decodePeek_of_reads (h : c.reads cw e) (hcw : cw.wellFormed = true) (hq : q.wf)
    (hs : q.stream = cw.bits ++ rest) :
    ∃ q', decodePeek c q = .found cw e q' ∧ q'.wf ∧ q'.stream = q.stream ∧ cw.len ≤ q'.bits ∧
      (q' = q ∨ q'.bits < cw.len + 8) := by
  suffices hfrom : ∀ l q, q.input = l → q.wf → q.stream = cw.bits ++ rest →
      ∃ q', peekFrom c l q = .found cw e q' ∧ q'.wf ∧ q'.stream = q.stream ∧ cw.len ≤ q'.bits ∧
        (q' = q ∨ q'.bits < cw.len + 8) from hfrom _ q rfl hq hs
  obtain ⟨-, hmax, -⟩ := Codeword.wellFormed_iff.1 hcw
  intro l
  induction l with
  | nil =>
    intro q hi hq hs
    have hb : cw.len ≤ q.bits := by
      have hlength := q.stream_length
      simp only [hs, hi, List.length_append, Codeword.bits_length, List.length_nil] at hlength
      omega
    exact ⟨q, by simp [peekFrom, h.held_some hcw hs hb], hq, rfl, hb, .inl rfl⟩
  | cons b input ih =>
    intro q hi hq hs
    rcases Nat.lt_or_ge q.bits cw.len with hb | hb
    · have hpull : (q.pullByte b input).stream = q.stream := by
        rw [BitStream.pullByte_stream hq (by omega), BitStream.stream, hi]
      obtain ⟨q', hfound, hwf, hstream, hle, hlt⟩ :=
        ih (q.pullByte b input) rfl (BitStream.pullByte_wf hq (by omega) b input) (hpull.trans hs)
      refine ⟨q', ?_, hwf, hstream.trans hpull, hle, .inr ?_⟩
      · rw [peekFrom, h.held_none hcw hs hb, if_neg (by omega)]
        exact hfound
      · rcases hlt with rfl | hlt
        · simpa using hb
        · exact hlt
    · exact ⟨q, by simp [peekFrom, h.held_some hcw hs hb], hq, rfl, hb, .inl rfl⟩

end

end

end Sys2Proof
end

section
/-! The round trip of 30_encoding.md R111 to R135: in each context the decoder answers the instruction whose encoding lies ahead. Each context is settled by the fields or the codeword it reads. -/

namespace Sys2Proof

/-! ### Length and distance symbols -/

theorem lengthExtra_le (k : Fin 29) : lengthExtra k ≤ 5 := by revert k; decide

theorem distanceExtra_le (k : Fin 30) : distanceExtra k ≤ 13 := by revert k; decide

/-- What an element with codeword `cw` and an extra field of `n` bits is, as `make` writes it from the extra value:
its encoding, its operand bounds, and what fetch consumes of it (43_huffman.md R313). -/
def Instr.IsSymbol (i : Instr) (cw : Codeword) (n : Nat) (make : Nat → Instr) : Prop :=
  ∃ x < 2 ^ n, i = make x ∧ encode i = .stream (cw.bits ++ bitsLsb n x) ∧ i.wellFormed = cw.wellFormed ∧
    i.fetchConsumes = cw.len

theorem Instr.IsSymbol.plain {i : Instr} {cw : Codeword} {make : Nat → Instr} (hmake : i = make 0)
    (hencode : encode i = .stream cw.bits) (hwf : i.wellFormed = cw.wellFormed) (hfetch : i.fetchConsumes = cw.len) :
    i.IsSymbol cw 0 make := ⟨0, by simp, hmake, by simpa using hencode, hwf, hfetch⟩

theorem Instr.IsSymbol.extra {n : Nat} {cw : Codeword} {make : Nat → Instr} {row : BitVec n → Instr}
    (x : BitVec n) (hmake : ∀ x, make x = row (BitVec.ofNat n x))
    (hencode : encode (row x) = .stream (cw.bits ++ bitsLsb n x.toNat))
    (hwf : (row x).wellFormed = cw.wellFormed) (hfetch : (row x).fetchConsumes = cw.len) :
    (row x).IsSymbol cw n make :=
  ⟨x.toNat, x.isLt, by rw [hmake, BitVec.ofNat_toNat, BitVec.setWidth_eq], hencode, hwf, hfetch⟩

/-- The extra field of a symbol is read behind its codeword. -/
theorem Instr.IsSymbol.yields {i : Instr} {cw : Codeword} {n : Nat} {make : Nat → Instr} {pending : Pending}
    {q : BitStream} {bits rest : List Bool} {r : Fetched} (h : i.IsSymbol cw n make) (hw : i.wellFormed = true)
    (hn : n ≤ 25) (he : encode i = .stream bits) (hs : q.stream = bits ++ rest)
    (hdecode : ∀ tail, cw.wellFormed = true → q.stream = cw.bits ++ tail →
      ∃ p, r = decodeExtra n pending make p ∧ p.wf ∧ p.stream = q.stream.drop cw.len) :
    r.yields i (q.stream.drop i.fetchConsumes) := by
  obtain ⟨x, hx, hi, hencode, hwf, hfetch⟩ := h
  cases hencode.symm.trans he
  rw [List.append_assoc] at hs
  obtain ⟨p, rfl, hp, hstream⟩ := hdecode _ (hwf ▸ hw) hs
  have hextra : p.stream = bitsLsb n x ++ rest := by
    rw [hstream, hs]
    exact List.drop_left' cw.bits_length
  rw [hfetch, ← hstream, hi]
  exact decodeExtra_yields hp hn hx hextra

/-- A length symbol is its codeword and its extra bits (30_encoding.md R121). -/
theorem Instr.isSymbol_of_lengthSymbol {i : Instr} {cw : Codeword} {k : Fin 29} (h : i.lengthSymbol = some (cw, k)) :
    i.IsSymbol cw (lengthExtra k) (lengthInstr k cw) := by
  cases i with
  | length257 | length258 | length259 | length260 | length261 | length262 | length263 | length264 | length285 =>
    cases h
    exact .plain rfl rfl rfl rfl
  | length265 _ x | length266 _ x | length267 _ x | length268 _ x | length269 _ x | length270 _ x | length271 _ x
  | length272 _ x | length273 _ x | length274 _ x | length275 _ x | length276 _ x | length277 _ x | length278 _ x
  | length279 _ x | length280 _ x | length281 _ x | length282 _ x | length283 _ x | length284 _ x =>
    cases h
    exact .extra x (fun _ => rfl) rfl rfl rfl
  | _ => cases h

/-- A distance symbol is its codeword and its extra bits (30_encoding.md R123). -/
theorem Instr.isSymbol_of_distanceSymbol {i : Instr} {cw : Codeword} {k : Fin 30}
    (h : i.distanceSymbol = some (cw, k)) : i.IsSymbol cw (distanceExtra k) (distanceInstr k cw) := by
  cases i with
  | distance0 | distance1 | distance2 | distance3 =>
    cases h
    exact .plain rfl rfl rfl rfl
  | distance4 _ x | distance5 _ x | distance6 _ x | distance7 _ x | distance8 _ x | distance9 _ x | distance10 _ x
  | distance11 _ x | distance12 _ x | distance13 _ x | distance14 _ x | distance15 _ x | distance16 _ x
  | distance17 _ x | distance18 _ x | distance19 _ x | distance20 _ x | distance21 _ x | distance22 _ x
  | distance23 _ x | distance24 _ x | distance25 _ x | distance26 _ x | distance27 _ x | distance28 _ x
  | distance29 _ x =>
    cases h
    exact .extra x (fun _ => rfl) rfl rfl rfl
  | _ => cases h

/-! ### Contexts of fixed-width fields -/

section

variable {q : BitStream} {rest : List Bool}

/-- A context that reads one field. -/
theorem decodeField_yields_field {m : Nat} {f : BitStream → Instr} {i : Instr} {x : BitVec m} (hq : q.wf)
    (hcan : q.CanNeed m) (hs : q.stream = bitsLsb m x.toNat ++ rest)
    (hf : ∀ q' : BitStream, q'.hold.setWidth m = x → f q' = i) : (decodeField m f q).yields i q.stream :=
  decodeField_yields hq hcan hs (bitsLsb_length _ _) fun q' h => hf q' (h.firstField hs le_rfl)

/-- A context that reads a 32-bit number, its low byte first (20_memory.md R87). -/
theorem decodeField_yields_le32 {make : U32 → Instr} {v : U32} (hq : q.wf) (hcan : q.CanNeed 32)
    (hs : q.stream = byteStream (le32 v) ++ rest) :
    (decodeField 32 (fun q' => make q'.hold) q).yields (make v) q.stream := by
  rw [byteStream_le32] at hs
  exact decodeField_yields_field hq hcan hs fun _ h => by rw [← h, BitVec.setWidth_eq]

/-- A context that reads a 32-bit number, its high byte first (20_memory.md R87, R88). -/
theorem decodeField_yields_be32 {make : U32 → Instr} {v : U32} (hq : q.wf) (hcan : q.CanNeed 32)
    (hs : q.stream = byteStream (le32 v).reverse ++ rest) :
    (decodeField 32 (fun q' => make (bswap32 q'.hold)) q).yields (make v) q.stream := by
  rw [byteStream_be32] at hs
  refine decodeField_yields_field hq hcan hs fun _ h => ?_
  rw [BitVec.setWidth_eq] at h
  rw [h, bswap32_bswap32]

/-- A context that reads two bytes. -/
theorem decodeField_yields_bytes {f : BitStream → Instr} {i : Instr} {a b : Byte} (hq : q.wf) (hb : q.bits = 0)
    (hs : q.stream = byteStream [a, b] ++ rest)
    (hf : ∀ q' : BitStream, q'.hold.toNat < 2 ^ 16 → q'.hold.setWidth 8 = a → (q'.hold >>> 8).setWidth 8 = b →
      f q' = i) : (decodeField 16 f q).yields i q.stream := by
  refine decodeField_yields hq (.inl (by omega)) hs (by simp) fun q' h => ?_
  simp only [byteStream_cons, byteStream_nil, List.append_nil, List.append_assoc] at hs
  have hsecond := h.field hs (by simp)
  rw [bitsLsb_length] at hsecond
  exact hf q' (h.hold_lt hb rfl) (h.firstField hs (by omega)) hsecond

/-- The two bytes of the gzip magic are its word, and no other two are (41_wrapper.md R192). -/
theorem hold_eq_magic_iff {hold : U32} {cmf flg : Byte} (hlt : hold.toNat < 2 ^ 16) (hcmf : hold.setWidth 8 = cmf)
    (hflg : (hold >>> 8).setWidth 8 = flg) : hold = 0x8B1F ↔ cmf = 0x1F ∧ flg = 0x8B := by
  subst hcmf hflg
  constructor
  · rintro rfl
    decide
  · rintro ⟨hlow, hhigh⟩
    bv_omega

theorem decode_head_yields {wrap : Wrap} {i : Instr} {bits : List Bool} (he : encode i = .stream bits)
    (ha : (Context.head wrap).admits i rest) (hq : q.wf) (hb : q.bits = 0) (hs : q.stream = bits ++ rest) :
    (decode (.head wrap) q).yields i (q.stream.drop i.fetchConsumes) := by
  obtain ⟨rfl, hwrap⟩ | ⟨cmf, flg, rfl, hother⟩ := ha
  · cases he
    refine decodeField_yields_bytes hq hb hs fun q' hlt hlow hhigh => if_pos ⟨hwrap, ?_⟩
    exact (hold_eq_magic_iff hlt hlow hhigh).2 ⟨rfl, rfl⟩
  · cases he
    refine decodeField_yields_bytes hq hb hs fun q' hlt hlow hhigh => ?_
    have hno : ¬((wrap = .gzip ∨ wrap = .auto) ∧ q'.hold = 0x8B1F) := by
      rwa [hold_eq_magic_iff hlt hlow hhigh]
    rw [headInstr, if_neg hno, hlow, hhigh]

/-- The four block types by their two type bits (30_encoding.md R114, R115). -/
theorem decode_blockHeader_yields {i : Instr} {final : Bool} {type : BitVec 2} (hq : q.wf)
    (hs : q.stream = final :: bitsLsb 2 type.toNat ++ rest)
    (hi : ∀ p : BitStream, p.hold.getLsbD 0 = final → p.peekBits 3 / 2 = type.toNat → blockInstr p = i) :
    (decode .blockHeader q).yields i q.stream := by
  refine decodeField_yields hq (.inl (by omega)) hs (by simp) fun q' h => hi q' ?_ ?_
  · have hfinal := h.firstField (m := 1) (x := BitVec.ofBool final) (rest := bitsLsb 2 type.toNat ++ rest)
      (by cases final <;> exact hs) (by omega)
    simpa using congrArg (BitVec.getLsbD · 0) hfinal
  · have htype := congrArg BitVec.toNat (h.field (before := [final]) (by simpa using hs) (by simp))
    simp only [List.length_singleton, BitVec.toNat_setWidth, BitVec.toNat_ushiftRight, Nat.shiftRight_one] at htype
    simp only [BitStream.peekBits]
    omega

theorem decode_dynCounts_yields {hlit hdist : BitVec 5} {hclen : BitVec 4} (hq : q.wf)
    (hs : q.stream = bitsLsb 5 hlit.toNat ++ bitsLsb 5 hdist.toNat ++ bitsLsb 4 hclen.toNat ++ rest) :
    (decode .dynCounts q).yields (.dynCounts hlit hdist hclen) q.stream := by
  refine decodeField_yields hq (.inl (by omega)) hs (by simp) fun q' h => ?_
  have hhclen := h.field (m := 4) (hs.trans (List.append_assoc _ _ _)) (by simp)
  simp only [List.append_assoc] at hs
  have hhlit := h.firstField hs (by omega)
  have hhdist := h.field hs (by simp)
  simp only [List.length_append, bitsLsb_length] at hhclen hhdist
  rw [hhlit, hhdist, hhclen]

/-- STORED discards to the byte boundary, then reads its four bytes (42_blocks.md R252). -/
theorem decode_storedLen_yields {len nlen : U16} (hq : q.wf)
    (hs : q.stream.drop (q.bits % 8) = byteStream (le16 len ++ le16 nlen) ++ rest) :
    (decode .storedLen q).yields (.storedLenNlen len nlen) (q.stream.drop (q.bits % 8)) := by
  rw [byteStream_append, byteStream_le16, byteStream_le16, ← BitStream.byteBits_stream] at hs
  rw [← BitStream.byteBits_stream]
  have hwhole : q.byteBits.bits % 8 = 0 := by
    simp only [BitStream.byteBits, BitStream.drop_bits]
    omega
  refine decodeField_yields (BitStream.byteBits_wf hq) (.inr ⟨hwhole, le_rfl⟩) hs (by simp) fun q' h => ?_
  simp only [List.append_assoc] at hs
  have hnlen := h.field hs (by simp)
  rw [bitsLsb_length] at hnlen
  rw [h.firstField hs (by omega), hnlen]

/-! ### Contexts of byte runs -/

/-- A run of counted bytes is the input's first `n` bytes, or all of a shorter input (30_encoding.md R116, R128). -/
theorem take_of_wholeRun {n : Nat} {data more : List Byte} (h : wholeRun n data rest) (hmore : byteStream more = rest) :
    (data ++ more).take n = data := by
  obtain rfl | ⟨hlt, rfl⟩ := h
  · exact List.take_left
  · have hnil : more = [] := List.length_eq_zero_iff.1 (by simpa using congrArg List.length hmore)
    rw [hnil, List.append_nil, List.take_of_length_le hlt.le]

/-- A zero-terminated run is read up to its 0 byte, or to the end of the input (30_encoding.md R111). -/
theorem strzRun_append {data more : List Byte} (hwf : data.dropLast.all (fun b => b != 0) = true)
    (h : 0 ∈ data ∨ more = []) : strzRun (data ++ more) = data := by
  induction data with
  | nil =>
    obtain rfl : more = [] := by simpa using h
    rfl
  | cons b bs ih =>
    by_cases hb : b = 0
    · subst hb
      cases bs with
      | nil => simp [strzRun]
      | cons => simp at hwf
    · have hwf' : bs.dropLast.all (fun b => b != 0) = true := by
        cases bs with
        | nil => rfl
        | cons => simp_all
      have h' : 0 ∈ bs ∨ more = [] := h.imp_left (List.mem_of_ne_of_mem (Ne.symm hb))
      rw [List.cons_append, strzRun, if_neg hb, ih hwf' h']

/-- A context that reads a run: what it takes of the input is the run that lies ahead. -/
theorem decodeRun_yields_run {f : List Byte → Instr} {run : List Byte → List Byte} {data : List Byte} (hq : q.wf)
    (hb : q.bits = 0) (hs : q.stream = byteStream data ++ rest) (hdata : data ≠ [])
    (hrun : ∀ more, byteStream more = rest → run (data ++ more) = data) :
    (decodeRun (run q.input) f q).yields (f data) (q.stream.drop (8 * data.length)) := by
  obtain ⟨more, hinput, hmore⟩ := eq_append_of_byteStream_eq (by simpa [BitStream.stream, hb] using hs)
  rw [hinput, hrun more hmore]
  exact decodeRun_yields hq hb hdata

theorem rawRunWellFormed_ne_nil {data : List Byte} (h : rawRunWellFormed data = true) : data ≠ [] := by
  rintro rfl
  cases h

theorem strzRunWellFormed_ne_nil {data : List Byte} (h : strzRunWellFormed data = true) : data ≠ [] := by
  rintro rfl
  cases h

theorem strzRun_of_wellFormed {data more : List Byte} (hwf : strzRunWellFormed data = true)
    (h : 0 ∈ data ∨ rest = []) (hmore : byteStream more = rest) : strzRun (data ++ more) = data := by
  refine strzRun_append (by simp_all [strzRunWellFormed]) (h.imp_right fun hrest => ?_)
  exact List.length_eq_zero_iff.1 (by simpa [hrest] using congrArg List.length hmore)

/-! ### Contexts of codewords -/

section

variable {cw : Codeword}

/-- A code-length element is decoded with its codeword still held (42_blocks.md R257). -/
theorem decode_codeLengths_of_reads {c : Code ClEntry} {e : ClEntry} (h : c.reads cw e) (hcw : cw.wellFormed = true)
    (hq : q.wf) (hs : q.stream = cw.bits ++ rest) :
    ∃ p, decode (.codeLengths c) q = decodeClSymbol cw e p ∧ p.wf ∧ p.stream = q.stream := by
  obtain ⟨p, hfound, hp, hstream, -, -⟩ := decodePeek_of_reads h hcw hq hs
  exact ⟨p, by simp [decode, hfound], hp, hstream⟩

/-- A literal/length element is decoded after its codeword (43_huffman.md R313). -/
theorem decode_litLen_of_reads {c : Code LlEntry} {e : LlEntry} (h : c.reads cw e) (hcw : cw.wellFormed = true)
    (hq : q.wf) (hs : q.stream = cw.bits ++ rest) :
    ∃ p, decode (.litLen c) q = decodeLlSymbol cw e p ∧ p.wf ∧ p.stream = q.stream.drop cw.len := by
  obtain ⟨p, hfound, hp, hstream, hle, -⟩ := decodePeek_of_reads h hcw hq hs
  exact ⟨p.drop cw.len, by simp [decode, hfound], BitStream.drop_wf hp _, by rw [BitStream.drop_stream hle, hstream]⟩

/-- A distance element is decoded after its codeword (43_huffman.md R313). -/
theorem decode_distance_of_reads {c : Code DistEntry} {e : DistEntry} (h : c.reads cw e) (hcw : cw.wellFormed = true)
    (hq : q.wf) (hs : q.stream = cw.bits ++ rest) :
    ∃ p, decode (.distance c) q = decodeDistSymbol cw e p ∧ p.wf ∧ p.stream = q.stream.drop cw.len := by
  obtain ⟨p, hfound, hp, hstream, hle, -⟩ := decodePeek_of_reads h hcw hq hs
  exact ⟨p.drop cw.len, by simp [decode, hfound], BitStream.drop_wf hp _, by rw [BitStream.drop_stream hle, hstream]⟩

theorem Codeword.wellFormedCl_iff : cw.wellFormedCl = true ↔ cw.wellFormed = true ∧ cw.len ≤ 7 := by
  simp [Codeword.wellFormedCl]

/-- A repeat's extra bits are read behind its codeword, all of them held together (42_blocks.md R257). -/
theorem decode_repeat_yields {n : Nat} {make : BitVec n → Instr} {r : BitVec n} (hq : q.wf) (hn : cw.len + n ≤ 25)
    (hs : q.stream = cw.bits ++ (bitsLsb n r.toNat ++ rest)) :
    (decodeField (cw.len + n) (fun q' => make ((q'.hold >>> cw.len).setWidth n)) q).yields (make r) q.stream := by
  refine decodeField_yields hq (.inl hn) (hs.trans (List.append_assoc _ _ _).symm) (by simp) fun q' h => ?_
  have hr := h.field hs (by simp)
  rw [Codeword.bits_length] at hr
  rw [hr]

theorem decode_codeLengths_yields {c : Code ClEntry} {i : Instr} {bits : List Bool} (hw : i.wellFormed = true)
    (he : encode i = .stream bits) (ha : (Context.codeLengths c).admits i rest) (hq : q.wf)
    (hs : q.stream = bits ++ rest) : (decode (.codeLengths c) q).yields i (q.stream.drop i.fetchConsumes) := by
  obtain ⟨cw, len, e, rfl, hreads, hvalue⟩ | ⟨cw, r, rfl, hreads⟩ | ⟨cw, r, rfl, hreads⟩ | ⟨cw, r, rfl, hreads⟩ := ha
  all_goals
    cases he
    obtain ⟨hcw, hlen⟩ := Codeword.wellFormedCl_iff.1 hw
  · obtain ⟨p, hdecode, hp, hstream⟩ := decode_codeLengths_of_reads hreads hcw hq hs
    refine ⟨p, ?_, hp, hstream⟩
    rw [hdecode, decodeClSymbol, if_pos (by omega), hvalue, BitVec.ofNat_toNat, BitVec.setWidth_eq]
  all_goals
    rw [List.append_assoc] at hs
    obtain ⟨p, hdecode, hp, hstream⟩ := decode_codeLengths_of_reads hreads hcw hq hs
    rw [hdecode]
    change Fetched.yields _ _ q.stream
    rw [← hstream] at hs ⊢
  · exact decode_repeat_yields (make := .clRepeatPrev cw) hp (by omega) hs
  · exact decode_repeat_yields (make := .clZeroShort cw) hp (by omega) hs
  · exact decode_repeat_yields (make := .clZeroLong cw) hp (by omega) hs

theorem decode_litLen_yields {c : Code LlEntry} {i : Instr} {bits : List Bool} (hw : i.wellFormed = true)
    (he : encode i = .stream bits) (ha : (Context.litLen c).admits i rest) (hq : q.wf)
    (hs : q.stream = bits ++ rest) : (decode (.litLen c) q).yields i (q.stream.drop i.fetchConsumes) := by
  obtain ⟨cw, v, rfl, hreads⟩ | ⟨cw, rfl, hreads⟩ | ⟨cw, rfl, hreads⟩ | ⟨cw, k, hsymbol, hreads⟩ := ha
  case inr.inr.inr =>
    exact (Instr.isSymbol_of_lengthSymbol hsymbol).yields hw (by have := lengthExtra_le k; omega) he hs
      fun _ hcw => decode_litLen_of_reads hreads hcw hq
  all_goals
    cases he
    obtain ⟨p, hdecode, hp, hstream⟩ := decode_litLen_of_reads hreads hw hq hs
    exact ⟨p, hdecode, hp, hstream⟩

theorem decode_distance_yields {c : Code DistEntry} {i : Instr} {bits : List Bool} (hw : i.wellFormed = true)
    (he : encode i = .stream bits) (ha : (Context.distance c).admits i rest) (hq : q.wf)
    (hs : q.stream = bits ++ rest) : (decode (.distance c) q).yields i (q.stream.drop i.fetchConsumes) := by
  obtain ⟨cw, rfl, hreads⟩ | ⟨cw, k, hsymbol, hreads⟩ := ha
  · cases he
    obtain ⟨p, hdecode, hp, hstream⟩ := decode_distance_of_reads hreads hw hq hs
    exact ⟨p, hdecode, hp, hstream⟩
  · exact (Instr.isSymbol_of_distanceSymbol hsymbol).yields hw (by have := distanceExtra_le k; omega) he hs
      fun _ hcw => decode_distance_of_reads hreads hcw hq

end

/-! ### The round trip -/

/-- In each context, what lies ahead and is admitted is what the decoder answers. -/
theorem decode_yields_of_encode {ctx : Context} {i : Instr} {bits : List Bool} (hw : i.wellFormed = true)
    (he : encode i = .stream bits) (ha : ctx.admits i rest) (hq : q.wf) (hb : ctx.aligned = true → q.bits = 0)
    (hs : q.stream = bits ++ rest) : (decode ctx q).yields i (q.stream.drop i.fetchConsumes) := by
  have hcan : ctx.aligned = true → q.CanNeed 32 := fun h => .inr ⟨by simp [hb h], le_rfl⟩
  cases ctx with
  | head => exact decode_head_yields he ha hq (hb rfl) hs
  | flags =>
    obtain ⟨cm, flg, rfl⟩ := ha
    cases he
    exact decodeField_yields_bytes hq (hb rfl) hs fun _ _ hcm hflg => by rw [hcm, hflg]
  | os =>
    obtain ⟨xfl, os, rfl⟩ := ha
    cases he
    exact decodeField_yields_bytes hq (hb rfl) hs fun _ _ hxfl hos => by rw [hxfl, hos]
  | xlen =>
    obtain ⟨n, rfl⟩ := ha
    cases he
    rw [byteStream_le16] at hs
    exact decodeField_yields_field hq (.inl (by omega)) hs fun _ h => by rw [h]
  | hcrc =>
    obtain ⟨crc, rfl⟩ := ha
    cases he
    rw [byteStream_le16] at hs
    exact decodeField_yields_field hq (.inl (by omega)) hs fun _ h => by rw [h]
  | time =>
    obtain ⟨t, rfl⟩ := ha
    cases he
    exact decodeField_yields_le32 hq (hcan rfl) hs
  | crc32 =>
    obtain ⟨v, rfl⟩ := ha
    cases he
    exact decodeField_yields_le32 hq (hcan rfl) hs
  | isize =>
    obtain ⟨n, rfl⟩ := ha
    cases he
    exact decodeField_yields_le32 hq (hcan rfl) hs
  | dictid =>
    obtain ⟨id, rfl⟩ := ha
    cases he
    exact decodeField_yields_be32 hq (hcan rfl) hs
  | adler32 =>
    obtain ⟨v, rfl⟩ := ha
    cases he
    exact decodeField_yields_be32 hq (hcan rfl) hs
  | extra n =>
    obtain ⟨data, rfl, hrun⟩ := ha
    cases he
    exact decodeRun_yields_run hq (hb rfl) hs (rawRunWellFormed_ne_nil hw) fun _ => take_of_wholeRun hrun
  | storedData n =>
    obtain ⟨data, rfl, hrun⟩ := ha
    cases he
    exact decodeRun_yields_run hq (hb rfl) hs (rawRunWellFormed_ne_nil hw) fun _ => take_of_wholeRun hrun
  | name =>
    obtain ⟨data, rfl, hrun⟩ := ha
    cases he
    exact decodeRun_yields_run hq (hb rfl) hs (strzRunWellFormed_ne_nil hw) fun _ => strzRun_of_wellFormed hw hrun
  | comment =>
    obtain ⟨data, rfl, hrun⟩ := ha
    cases he
    exact decodeRun_yields_run hq (hb rfl) hs (strzRunWellFormed_ne_nil hw) fun _ => strzRun_of_wellFormed hw hrun
  | blockHeader =>
    obtain ⟨final, rfl | rfl | rfl | rfl⟩ := ha
    · cases he
      exact decode_blockHeader_yields (type := 0) hq hs fun p hfinal htype => by
        simp only [blockInstr, hfinal, htype]
        rfl
    · cases he
      exact decode_blockHeader_yields (type := 1) hq hs fun p hfinal htype => by
        simp only [blockInstr, hfinal, htype]
        rfl
    · cases he
      exact decode_blockHeader_yields (type := 2) hq hs fun p hfinal htype => by
        simp only [blockInstr, hfinal, htype]
        rfl
    · cases he
      exact decode_blockHeader_yields (type := 3) hq hs fun p hfinal htype => by
        simp only [blockInstr, hfinal, htype]
        rfl
  | storedLen =>
    obtain ⟨len, nlen, rfl⟩ := ha
    cases he
    have hzero : q.bits % 8 = 0 := by simp [hb rfl]
    have hyields := decode_storedLen_yields (len := len) (nlen := nlen) (rest := rest) hq (by rwa [hzero])
    rw [hzero] at hyields
    exact hyields
  | dynCounts =>
    obtain ⟨hlit, hdist, hclen, rfl⟩ := ha
    cases he
    exact decode_dynCounts_yields hq hs
  | clLen =>
    obtain ⟨len, rfl⟩ := ha
    cases he
    exact decodeField_yields_field hq (.inl (by omega)) hs fun _ h => by rw [h]
  | codeLengths => exact decode_codeLengths_yields hw he ha hq hs
  | litLen => exact decode_litLen_yields hw he ha hq hs
  | distance => exact decode_distance_yields hw he ha hq hs

end

theorem decodeCommand_of_encode {i : Instr} {c : Command} (h : encode i = .command c) : decodeCommand c = i := by
  cases i with
  | init | reset | inflate | setDictionary | getHeader | teardown =>
    cases h
    rfl
  | _ => cases h

/-- Settles O12: a command is its record; a stream element is found by its context, as `decode_yields_of_encode` says,
and STORED also behind the bits that it discards. -/
theorem decodeEncodeRoundTrip : Obligations.DecodeEncodeRoundTrip := by
  refine ⟨fun i hw => ?_, fun len nlen bits rest q he hq hs => ?_⟩
  · cases he : encode i with
    | command c => exact decodeCommand_of_encode he
    | stream bits => exact fun ctx q rest ha hq _ hb hs => decode_yields_of_encode hw he ha hq hb hs
  · cases he
    exact decode_storedLen_yields hq hs

end Sys2Proof
end

section
/-! The symbols of lengths and distances (30_encoding.md R121, R123, R134): the symbols' ranges follow one another without a gap, so each value lies in one range. -/

namespace Sys2Proof

/-- Ranges `base k .. base k + width k` that follow one another split every value between them into one range's number
and an offset in it. -/
theorem existsUnique_range {n : Nat} {base width : Fin (n + 1) → Nat}
    (hnext : ∀ k : Fin n, base k.castSucc + width k.castSucc = base k.succ) {v : Nat} (lo : base 0 ≤ v)
    (hi : v < base (Fin.last n) + width (Fin.last n)) :
    ∃! p : Fin (n + 1) × Nat, p.2 < width p.1 ∧ base p.1 + p.2 = v := by
  have hmono : Monotone base := Fin.monotone_iff_le_succ.2 fun k => hnext k ▸ Nat.le_add_right _ _
  have hbefore : ∀ {j k : Fin (n + 1)}, j < k → base j + width j ≤ base k := by
    intro j k hjk
    obtain ⟨j, rfl⟩ := Fin.exists_castSucc_eq.2 (Fin.ne_last_of_lt hjk)
    exact (hnext j).le.trans (hmono (Fin.castSucc_lt_iff_succ_le.1 hjk))
  have hrange : ∀ k, v < base k + width k → ∃ j, base j ≤ v ∧ v < base j + width j := by
    intro k
    induction k using Fin.induction with
    | zero => exact fun h => ⟨0, lo, h⟩
    | succ k ih =>
      intro h
      rcases Nat.lt_or_ge v (base k.succ) with hv | hv
      · exact ih (hnext k ▸ hv)
      · exact ⟨k.succ, hv, h⟩
  obtain ⟨j, hj, hj'⟩ := hrange _ hi
  refine ⟨(j, v - base j), ⟨by simp only; omega, by simp only; omega⟩, ?_⟩
  rintro ⟨k, x⟩ ⟨hx, hv⟩
  simp only at hx hv
  rcases lt_trichotomy k j with hkj | rfl | hjk
  · have := hbefore hkj
    omega
  · exact Prod.ext rfl (by simp only; omega)
  · have := hbefore hjk
    omega

/-- How many lengths a length symbol stands for, leaving out symbol 284 with extra value 31 (R134). -/
def lengthWidth (k : Fin 29) : Nat := if k = 27 then 31 else 2 ^ lengthExtra k

theorem lt_lengthWidth_iff (k : Fin 29) (x : Nat) :
    x < lengthWidth k ↔ x < 2 ^ lengthExtra k ∧ ¬(k = 27 ∧ x = 31) := by
  by_cases hk : k = 27
  · subst hk
    have hwidth : lengthWidth 27 = 31 := rfl
    have hextra : 2 ^ lengthExtra 27 = 32 := rfl
    omega
  · simp [lengthWidth, hk]

theorem lengthBase_succ (k : Fin 28) : lengthBase k.castSucc + lengthWidth k.castSucc = lengthBase k.succ := by
  revert k
  decide

theorem distanceBase_succ (k : Fin 29) :
    distanceBase k.castSucc + 2 ^ distanceExtra k.castSucc = distanceBase k.succ := by
  revert k
  decide

/-- The lengths a symbol gives (R121). -/
theorem lengthBase_bounds (k : Fin 29) : 3 ≤ lengthBase k ∧ lengthBase k + 2 ^ lengthExtra k ≤ 259 := by
  revert k
  decide

/-- The distances a symbol gives (R123). -/
theorem distanceBase_bounds (k : Fin 30) :
    1 ≤ distanceBase k ∧ distanceBase k + 2 ^ distanceExtra k ≤ Config.dMax + 1 := by
  revert k
  decide

/-- Settles O14: the ranges of the length symbols and of the distance symbols follow one another. -/
theorem everyLengthAndDistanceHasOneSymbol : Obligations.EveryLengthAndDistanceHasOneSymbol := by
  refine ⟨fun l lo hi => ?_, fun d lo hi => ?_, fun k x hx => ?_, fun k x hx => ?_⟩
  · have hrange := existsUnique_range lengthBase_succ lo (hi.trans_lt (by decide))
    refine (existsUnique_congr fun p => ?_).1 hrange
    rw [lt_lengthWidth_iff]
    tauto
  · exact existsUnique_range (width := fun k => 2 ^ distanceExtra k) distanceBase_succ lo (hi.trans_lt (by decide))
  · have := lengthBase_bounds k
    omega
  · have := distanceBase_bounds k
    omega

end Sys2Proof
end

section
/-! The fixed codes (30_encoding.md R124, R125, 43_huffman.md R311), and words written out from the spec. A run of equal code lengths gets consecutive codewords (43_huffman.md R303), and the fixed codes are a few such runs. -/

namespace Sys2Proof

/-! ### Runs of consecutive codewords -/

/-- `n` consecutive codewords of length `l` from `code` on, for consecutive symbols from `sym` on. -/
def codeRun {ε : Type} (entry : Nat → ε) (sym l code n : Nat) : Code ε :=
  (List.range n).map fun j => (⟨l, code + j⟩, entry (sym + j))

section

variable {ε : Type} (entry : Nat → ε) {sym l code n : Nat}

theorem codeRun_succ (sym l code n : Nat) :
    codeRun entry sym l code (n + 1) = (⟨l, code⟩, entry sym) :: codeRun entry (sym + 1) l (code + 1) n := by
  simp [codeRun, List.range_succ_eq_map, Function.comp_def, Nat.add_assoc, Nat.add_comm 1]

/-- Symbols of one length get consecutive codewords (43_huffman.md R303). -/
theorem assignCodes_replicate (hl : l ≠ 0) (n sym : Nat) (lens : List Nat) {next : List Nat} (hnext : l < next.length) :
    assignCodes entry sym (List.replicate n l ++ lens) next =
      codeRun entry sym l (next.getD l 0) n ++
        assignCodes entry (sym + n) lens (next.set l (next.getD l 0 + n)) := by
  induction n generalizing sym next with
  | zero => simp [codeRun, List.getElem?_eq_getElem hnext]
  | succ n ih =>
    rw [List.replicate_succ, List.cons_append, assignCodes, if_neg hl, ih _ (by simpa using hnext), codeRun_succ]
    simp [List.getElem?_set_self hnext, Nat.add_assoc, Nat.add_comm 1]

/-- A codeword of the run stands for its symbol. -/
theorem lookup_codeRun_append {x : Nat} (lo : code ≤ x) (hi : x < code + n) (c : Code ε) :
    Code.lookup (codeRun entry sym l code n ++ c) ⟨l, x⟩ = some (entry (sym + (x - code))) := by
  induction n generalizing sym code with
  | zero => omega
  | succ n ih =>
    rw [codeRun_succ, List.cons_append]
    by_cases hx : code = x
    · simp [Code.lookup, hx]
    · have htail := ih (sym := sym + 1) (code := code + 1) (by omega) (by omega)
      simp only [Code.lookup] at htail ⊢
      rw [List.find?_cons_of_neg (by simp [hx]), htail]
      congr 2
      omega

/-- A codeword of another length, or outside the run's numbers, is looked for behind the run. -/
theorem lookup_codeRun_append_of_ne {len x : Nat} (h : len ≠ l ∨ x < code ∨ code + n ≤ x) (c : Code ε) :
    Code.lookup (codeRun entry sym l code n ++ c) ⟨len, x⟩ = c.lookup ⟨len, x⟩ := by
  have hnone : (codeRun entry sym l code n).find? (fun p => Nat.beq p.1.len len && Nat.beq p.1.code x) = none := by
    simp only [List.find?_eq_none, codeRun, List.mem_map, List.mem_range]
    rintro _ ⟨j, hj, rfl⟩
    simp only [Bool.and_eq_true, Nat.beq_eq]
    omega
  simp only [Code.lookup, List.find?_append, hnone, Option.none_or]

end

/-! ### The fixed codes -/

/-- A complete set of lengths has its canonical code (43_huffman.md R302). -/
theorem buildCode_of_complete {ε : Type} {kind : CodeKind} {entry : Nat → ε} {invalid : ε} {lens : List Nat}
    (hmax : maxLength lens ≠ 0) (hcomplete : lengthBudget lens Config.maxBits = some 0) :
    buildCode kind entry invalid lens = some (canonicalCode entry lens) := by
  rw [buildCode, if_neg hmax, hcomplete]

theorem fixedLl_eq_canonicalCode : fixedLl = canonicalCode llEntry fixedLlLengths := by
  rw [fixedLl, buildLlCode, buildCode_of_complete (by decide +kernel) (by decide +kernel), Option.getD_some]

theorem fixedDist_eq_canonicalCode : fixedDist = canonicalCode distEntry fixedDistLengths := by
  rw [fixedDist, buildDistCode, buildCode_of_complete (by decide +kernel) (by decide +kernel), Option.getD_some]

theorem firstCodes_fixedLlLengths : firstCodes fixedLlLengths =
    [0, 0, 0, 0, 0, 0, 0, 0, 0x30, 0x190, 0x400, 0x800, 0x1000, 0x2000, 0x4000, 0x8000] := by decide +kernel

theorem firstCodes_fixedDistLengths : firstCodes fixedDistLengths =
    [0, 0, 0, 0, 0, 0, 0x40, 0x80, 0x100, 0x200, 0x400, 0x800, 0x1000, 0x2000, 0x4000, 0x8000] := by decide +kernel

/-- FIXED_L in symbol order: its four runs (R124, R125). -/
theorem fixedLl_eq_runs :
    fixedLl = codeRun llEntry 0 8 0b00110000 144 ++ (codeRun llEntry 144 9 0b110010000 112 ++
      (codeRun llEntry 256 7 0 24 ++ (codeRun llEntry 280 8 0b11000000 8 ++ []))) := by
  have hruns : fixedLlLengths =
      List.replicate 144 8 ++ (List.replicate 112 9 ++ (List.replicate 24 7 ++ (List.replicate 8 8 ++ []))) := by
    simp only [fixedLlLengths, List.append_assoc, List.append_nil]
  rw [fixedLl_eq_canonicalCode, canonicalCode, firstCodes_fixedLlLengths, hruns,
    assignCodes_replicate _ (by simp) _ _ _ (by simp), assignCodes_replicate _ (by simp) _ _ _ (by simp),
    assignCodes_replicate _ (by simp) _ _ _ (by simp), assignCodes_replicate _ (by simp) _ _ _ (by simp)]
  simp [assignCodes]

/-- FIXED_D: one run, the 5-bit numbers (R124, R125). -/
theorem fixedDist_eq_run : fixedDist = codeRun distEntry 0 5 0 32 ++ [] := by
  have hrun : fixedDistLengths = List.replicate 32 5 ++ [] := (List.append_nil _).symm
  rw [fixedDist_eq_canonicalCode, canonicalCode, firstCodes_fixedDistLengths, hrun,
    assignCodes_replicate _ (by simp) _ _ _ (by simp)]
  simp [assignCodes]

/-- The 7-bit codewords are those of the third run. -/
theorem fixedLl_lookup_seven {x : Nat} (hx : x < 24) : fixedLl.lookup ⟨7, x⟩ = some (llEntry (256 + x)) := by
  rw [fixedLl_eq_runs, lookup_codeRun_append_of_ne _ (by omega), lookup_codeRun_append_of_ne _ (by omega),
    lookup_codeRun_append _ (by omega) (by omega), Nat.sub_zero]

/-- The lower 8-bit codewords are those of the first run. -/
theorem fixedLl_lookup_eight {v : Nat} (hv : v < 144) :
    fixedLl.lookup ⟨8, 0b00110000 + v⟩ = some (llEntry v) := by
  rw [fixedLl_eq_runs, lookup_codeRun_append _ (by omega) (by omega), Nat.add_sub_cancel_left, Nat.zero_add]

/-- The upper 8-bit codewords are those of the last run. -/
theorem fixedLl_lookup_upper_eight {j : Nat} (hj : j < 8) :
    fixedLl.lookup ⟨8, 0b11000000 + j⟩ = some (llEntry (280 + j)) := by
  rw [fixedLl_eq_runs, lookup_codeRun_append_of_ne _ (by omega), lookup_codeRun_append_of_ne _ (by omega),
    lookup_codeRun_append_of_ne _ (by omega), lookup_codeRun_append _ (by omega) (by omega), Nat.add_sub_cancel_left]

/-- The 9-bit codewords are those of the second run. -/
theorem fixedLl_lookup_nine {j : Nat} (hj : j < 112) :
    fixedLl.lookup ⟨9, 0b110010000 + j⟩ = some (llEntry (144 + j)) := by
  rw [fixedLl_eq_runs, lookup_codeRun_append_of_ne _ (by omega), lookup_codeRun_append _ (by omega) (by omega),
    Nat.add_sub_cancel_left]

theorem fixedDist_lookup {d : Nat} (hd : d < 32) : fixedDist.lookup ⟨5, d⟩ = some (distEntry d) := by
  rw [fixedDist_eq_run, lookup_codeRun_append _ (by omega) (by omega), Nat.sub_zero, Nat.zero_add]

theorem llEntry_of_lt {v : Nat} (hv : v < 256) : llEntry v = .lit (BitVec.ofNat 8 v) := if_pos hv

theorem llEntry_length {sym : Nat} (k : Fin 29) (hsym : sym = 257 + k.val) : llEntry sym = .len k := by
  subst hsym
  have hk := k.isLt
  rw [llEntry, if_neg (by omega), if_neg (by omega), dif_pos (by omega)]
  exact congrArg LlEntry.len (Fin.ext (Nat.add_sub_cancel_left ..))

theorem llEntry_invalid {sym : Nat} (hsym : 286 ≤ sym) : llEntry sym = .invalid := by
  rw [llEntry, if_neg (by omega), if_neg (by omega), dif_neg (by omega)]

/-- Settles O5: each codeword lies in one run of its fixed code. -/
theorem fixedCodewords : Obligations.FixedCodewords := by
  refine ⟨fixedLl_lookup_seven (by omega), fun k => ?_, fun v => ?_, fun k => ?_, fun k => ?_, fun v => ?_, fun d => ?_,
    fixedDist_lookup (by omega), fixedDist_lookup (by omega)⟩
  · rw [fixedLl_lookup_seven (by omega), llEntry_length ⟨k, by omega⟩ (by simp only; omega)]
  · rw [fixedLl_lookup_eight v.isLt, llEntry_of_lt (by omega)]
  · rw [fixedLl_lookup_upper_eight (by omega), llEntry_length ⟨23 + k, by omega⟩ (by simp only; omega)]
  · rw [show 0b11000110 + k.val = 0b11000000 + (6 + k.val) by omega, fixedLl_lookup_upper_eight (by omega),
      llEntry_invalid (by omega)]
  · rw [fixedLl_lookup_nine v.isLt, llEntry_of_lt (by omega)]
  · rw [fixedDist_lookup (by omega), distEntry, dif_pos d.isLt]

/-! ### Words written out -/

/-- Settles O13: the decoder's whole answer on each word, its stream with it. -/
theorem knownWordsDecode : Obligations.KnownWordsDecode :=
  ⟨⟨⟨0x9C78, 16, [], 2⟩, by decide +kernel⟩, ⟨⟨0x8B1F, 16, [], 2⟩, by decide +kernel⟩,
    ⟨⟨0x4B, 8, [], 1⟩, by decide +kernel⟩, ⟨⟨0xFFFA0005, 32, [], 4⟩, by decide +kernel⟩,
    ⟨⟨0x62006200, 32, [], 4⟩, by decide +kernel⟩, ⟨⟨0xE8B7BE43, 32, [], 4⟩, by decide +kernel⟩,
    ⟨⟨0x3FBD, 16, [], 2⟩, by decide +kernel⟩, ⟨⟨0, 0, [], 1⟩, by decide +kernel⟩,
    ⟨⟨0, 1, [], 1⟩, by decide +kernel⟩, ⟨⟨1, 1, [], 1⟩, by decide +kernel⟩, ⟨⟨0, 3, [], 1⟩, by decide +kernel⟩⟩

end Sys2Proof
end

section
/-! NEED, BITS, DROP and DecodePeek on the stream (40_bitstream.md R160 to R167): what they pull is one relation, `Pulls`, from which what is kept follows: the stream, the bits held before, and a codeword held before. -/

namespace Sys2Proof

namespace BitStream

/-- From `q` to `q'` input bytes are pulled one by one, each with at most 24 bits held (40_bitstream.md R161, R169). -/
inductive Pulls : BitStream → BitStream → Prop
  | refl (q : BitStream) : Pulls q q
  | pull {q q' : BitStream} {b : Byte} {rest : List Byte} (hi : q.input = b :: rest) (hb : q.bits ≤ 24)
      (h : Pulls (q.pullByte b rest) q') : Pulls q q'

theorem Pulls.trans {q q' q'' : BitStream} (h : q.Pulls q') (h' : q'.Pulls q'') : q.Pulls q'' := by
  induction h with
  | refl => exact h'
  | pull hi hb _ ih => exact .pull hi hb (ih h')

/-- No pull loses a bit of the stream (40_bitstream.md R161). -/
theorem Pulls.stream {q q' : BitStream} (h : q.Pulls q') (hq : q.wf) : q'.stream = q.stream := by
  induction h with
  | refl => rfl
  | pull hi hb _ ih =>
    rw [ih (pullByte_wf hq hb _ _), pullByte_stream hq hb, BitStream.stream, hi]

theorem Pulls.bits_le {q q' : BitStream} (h : q.Pulls q') : q.bits ≤ q'.bits := by
  induction h with
  | refl => rfl
  | pull _ _ _ ih => exact (Nat.le_add_right _ 8).trans ih

/-- The bits held before stay the low bits of what is held (40_bitstream.md R161). -/
theorem Pulls.hold_low {q q' : BitStream} (h : q.Pulls q') {w : Nat} (hw : w ≤ q.bits) :
    q'.hold.toNat % 2 ^ w = q.hold.toNat % 2 ^ w := by
  induction h with
  | refl => rfl
  | pull _ hb _ ih => rw [ih (hw.trans (Nat.le_add_right _ 8)), pullByte_low hb _ _ hw]

/-- What NEED pulls, it pulls byte by byte (40_bitstream.md R162). -/
theorem need_pulls {n : Nat} {q q' : BitStream} (h : q.need n = .held q' ∨ q.need n = .starved q') : q.Pulls q' := by
  suffices hfrom : ∀ l q, q.input = l → (needFrom n l q = .held q' ∨ needFrom n l q = .starved q') →
      q.Pulls q' from hfrom _ q rfl h
  intro l
  induction l with
  | nil =>
    intro q _ h
    rw [needFrom] at h
    split at h <;> obtain h | h := h <;> cases h <;> exact .refl _
  | cons b rest ih =>
    intro q hi h
    rw [needFrom] at h
    split at h
    · obtain h | h := h <;> cases h
      exact .refl _
    split at h
    · obtain h | h := h <;> cases h
    · exact .pull hi (by omega) (ih _ rfl h)

/-- NEED pulls nothing when the bits are held already (40_bitstream.md R162). -/
theorem need_of_le {n : Nat} {q : BitStream} (hn : n ≤ q.bits) : q.need n = .held q := by
  unfold need
  cases q.input <;> rw [needFrom, if_pos hn]

end BitStream

/-- What DecodePeek pulls, it pulls byte by byte (43_huffman.md R315). -/
theorem decodePeek_pulls {ε : Type} {c : Code ε} {q q' : BitStream}
    (h : (∃ cw e, decodePeek c q = .found cw e q') ∨ decodePeek c q = .starved q') : q.Pulls q' := by
  suffices hfrom : ∀ l q, q.input = l →
      ((∃ cw e, peekFrom c l q = .found cw e q') ∨ peekFrom c l q = .starved q') → q.Pulls q' from hfrom _ q rfl h
  intro l
  induction l with
  | nil =>
    intro q _ h
    rw [peekFrom] at h
    split at h <;> obtain ⟨_, _, h⟩ | h := h <;> cases h <;> exact .refl _
  | cons b rest ih =>
    intro q hi h
    rw [peekFrom] at h
    split at h
    · obtain ⟨_, _, h⟩ | h := h <;> cases h
      exact .refl _
    split at h
    · obtain ⟨_, _, h⟩ | h := h <;> cases h
    · exact .pull hi (by omega) (ih _ rfl h)

/-- A codeword held before the pulls is the one found after them (43_huffman.md R305). -/
theorem Code.held_of_pulls {ε : Type} {c : Code ε} {q q' : BitStream} {r : Codeword × ε} (hq : c.held q = some r)
    (h : q.Pulls q') : c.held q' = some r := by
  have hsame : ∀ w, w ≤ q.bits → heldCodeword q'.hold.toNat w = heldCodeword q.hold.toNat w := fun w hw => by
    rw [heldCodeword, h.hold_low hw, heldCodeword]
  obtain ⟨w, hw1, hw2, hr, hlook, hbefore⟩ := Code.firstMatch_some hq
  have hbits := h.bits_le
  cases hheld : c.held q' with
  | none =>
    have := Code.firstMatch_none.1 hheld w hw1 (by omega)
    rw [hsame w (by omega), ← hr, hlook] at this
    cases this
  | some r' =>
    obtain ⟨w', hw1', -, hr', hlook', hbefore'⟩ := Code.firstMatch_some hheld
    obtain hw | rfl | hw := Nat.lt_trichotomy w' w
    · rw [hr', hsame w' (by omega), hbefore w' hw1' hw] at hlook'
      cases hlook'
    · rw [hsame w' (by omega), ← hr] at hr'
      rw [hr', hlook] at hlook'
      exact congrArg some (Prod.ext hr' (Option.some.inj hlook').symm)
    · have := hbefore' w hw1 hw
      rw [hsame w (by omega), ← hr, hlook] at this
      cases this

/-- Settles O1: the answers of NEED by `need_cases`; the stream is kept pull by pull. -/
theorem needKeepsTheStream : Obligations.NeedKeepsTheStream := by
  intro n q hq hn hwhole
  obtain ⟨k, q', hneed, hp, hle, hlt⟩ | ⟨q', hneed, hp, hlt⟩ | ⟨-, k, -, hfull, hlt⟩ := q.need_cases n
  · have hk := hp.le
    have hbits := hp.bits
    have hstream := (BitStream.need_pulls (.inl hneed)).stream hq
    refine ⟨fun _ => ⟨q', hneed, hp.wf hq, hstream, hle, ?_, ?_⟩, fun _ => ?_⟩
    · refine hlt.imp_left fun h0 => ?_
      have hheld := q.need_of_le (n := n) (by omega)
      rw [hneed] at hheld
      exact Need.held.inj hheld
    · rw [hp.taken, hp.input, List.length_drop]
      omega
    · omega
  · have hbits := hp.bits
    have hstream := (BitStream.need_pulls (.inr hneed)).stream hq
    have hinput : q'.input = [] := by rw [hp.input, List.drop_length]
    exact ⟨fun _ => by omega, fun _ => ⟨q', hneed, hp.wf hq, hstream, hinput, hbits, hp.taken⟩⟩
  · omega

/-- Settles O2: the held bits are the head of the stream. -/
theorem bitsAndDropTakeTheOldestBits : Obligations.BitsAndDropTakeTheOldestBits := by
  intro n q hq hn
  have hpeek : bitsLsb n (q.peekBits n) = bitsLsb n q.hold.toNat := bitsLsb_congr (Nat.mod_mod _ _)
  refine ⟨hpeek.trans (BitStream.bitsLsb_hold hn), BitStream.drop_stream hn, rfl, BitStream.drop_wf hq n,
    ⟨q.bits % 8, Nat.mod_lt _ (by decide), q.byteBits_stream, ?_⟩, ?_⟩
  · simp only [BitStream.byteBits, BitStream.drop_bits]
    omega
  · simp only [BitStream.byteBits, BitStream.drop_bits]
    omega

end Sys2Proof
end

section
/-! Suspension and resumption (40_bitstream.md R167): the input that ends inside an element is followed by the next call's input as if both had come in one piece, and until then no held bit is lost. -/

namespace Sys2Proof

namespace BitStream

/-- The stream when `more` follows the input presented so far. -/
def feed (more : List Byte) (q : BitStream) : BitStream := { q with input := q.input ++ more }

variable {q q' : BitStream} {more : List Byte}

@[simp] theorem feed_bits (more : List Byte) (q : BitStream) : (q.feed more).bits = q.bits := rfl

theorem feed_pullByte (b : Byte) (rest : List Byte) (q : BitStream) :
    (q.feed more).pullByte b (rest ++ more) = (q.pullByte b rest).feed more := rfl

/-- After all input was taken, what follows it is all that is presented. -/
theorem feed_of_input_nil (h : q.input = []) : q.feed more = { q with input := more } := by
  rw [feed, h, List.nil_append]

theorem byteBits_of_whole (h : q.bits % 8 = 0) : q.byteBits = q := by rw [byteBits, h, drop_zero]

/-- NEED that ran out of input goes on with the next input (40_bitstream.md R167). -/
theorem need_feed {n : Nat} (h : q.need n = .starved q') : (q.feed more).need n = (q'.feed more).need n := by
  suffices hfrom : ∀ l q, q.input = l → needFrom n l q = .starved q' →
      needFrom n (l ++ more) (q.feed more) = (q'.feed more).need n from hfrom _ q rfl h
  intro l
  induction l with
  | nil =>
    intro q hi h
    rw [needFrom] at h
    split at h <;> cases h
    rw [need, feed, hi]
  | cons b rest ih =>
    intro q hi h
    rw [needFrom] at h
    split at h
    · cases h
    next hn =>
    split at h
    · cases h
    next hb =>
      rw [List.cons_append, needFrom, feed_bits, if_neg hn, if_neg hb, feed_pullByte]
      exact ih _ rfl h

end BitStream

section

variable {q q' : BitStream} {more : List Byte}

theorem decodeField_feed {n : Nat} {f : BitStream → Instr} {p : Option Pending}
    (h : decodeField n f q = .starved p q') : decodeField n f (q.feed more) = decodeField n f (q'.feed more) := by
  unfold decodeField at h ⊢
  split at h <;> cases h
  next hneed => rw [BitStream.need_feed hneed]

/-- A field that ran out of input keeps what it pulled (40_bitstream.md R167). -/
theorem decodeField_pulls {n : Nat} {f : BitStream → Instr} {p : Option Pending}
    (h : decodeField n f q = .starved p q') : q.Pulls q' := by
  unfold decodeField at h
  split at h <;> cases h
  next hneed => exact BitStream.need_pulls (.inr hneed)

/-- Only a repeat waits for input once its codeword is held, as a field with the codeword in it (42_blocks.md R257). -/
theorem decodeClSymbol_starved {cw : Codeword} {e : ClEntry} {p : Option Pending}
    (h : decodeClSymbol cw e q = .starved p q') : ∃ n f, ∀ q, decodeClSymbol cw e q = decodeField n f q := by
  unfold decodeClSymbol at h ⊢
  split_ifs at h ⊢
  · exact ⟨_, _, fun _ => rfl⟩
  · exact ⟨_, _, fun _ => rfl⟩
  · exact ⟨_, _, fun _ => rfl⟩

theorem decodeExtra_starved {n : Nat} {pending : Pending} {f : Nat → Instr} {p : Option Pending}
    (h : decodeExtra n pending f q = .starved p q') : p = some pending := by
  unfold decodeExtra at h
  split at h <;> cases h
  rfl

/-- A length symbol that waits for its extra bits is pending (44_symbols.md R352). -/
theorem decodeLlSymbol_starved {cw : Codeword} {e : LlEntry} {p : Option Pending}
    (h : decodeLlSymbol cw e q = .starved p q') : ∃ k, p = some (.length k) := by
  cases e with
  | len k => exact ⟨k, decodeExtra_starved h⟩
  | lit | eob | invalid => cases h

/-- A distance symbol that waits for its extra bits is pending (44_symbols.md R354). -/
theorem decodeDistSymbol_starved {cw : Codeword} {e : DistEntry} {p : Option Pending}
    (h : decodeDistSymbol cw e q = .starved p q') : ∃ k, p = some (.distance k) := by
  cases e with
  | dist k => exact ⟨k, decodeExtra_starved h⟩
  | invalid => cases h

/-- A run that ran out of input has taken nothing. -/
theorem decodeRun_starved {data : List Byte} {f : List Byte → Instr} {p : Option Pending}
    (h : decodeRun data f q = .starved p q') : data = [] ∧ q' = q := by
  unfold decodeRun at h
  split at h <;> cases h
  next hdata => exact ⟨List.isEmpty_iff.1 hdata, rfl⟩

/-- DecodePeek answers a codeword held already. -/
theorem peekFrom_of_held {ε : Type} {c : Code ε} {r : Codeword × ε} (l : List Byte) (h : c.held q = some r) :
    peekFrom c l q = .found r.1 r.2 q := by
  cases l <;> rw [peekFrom, h]

/-- DecodePeek that ran out of input goes on with the next input, and one that did not leaves it (43_huffman.md
R315). -/
theorem decodePeek_feed {ε : Type} {c : Code ε} :
    (∀ cw e, decodePeek c q = .found cw e q' → decodePeek c (q.feed more) = .found cw e (q'.feed more)) ∧
    (decodePeek c q = .starved q' → decodePeek c (q.feed more) = decodePeek c (q'.feed more)) := by
  suffices hfrom : ∀ l q, q.input = l →
      (∀ cw e, peekFrom c l q = .found cw e q' →
        peekFrom c (l ++ more) (q.feed more) = .found cw e (q'.feed more)) ∧
      (peekFrom c l q = .starved q' → peekFrom c (l ++ more) (q.feed more) = decodePeek c (q'.feed more)) from
    hfrom _ q rfl
  intro l
  induction l with
  | nil =>
    intro q hi
    rw [peekFrom]
    cases hheld : c.held q with
    | some r => exact ⟨fun cw e h => by cases h; exact peekFrom_of_held _ (q := BitStream.feed more _) hheld, nofun⟩
    | none =>
      refine ⟨nofun, fun h => ?_⟩
      cases h
      rw [decodePeek, BitStream.feed, hi]
  | cons b rest ih =>
    intro q hi
    rw [peekFrom]
    cases hheld : c.held q with
    | some r => exact ⟨fun cw e h => by cases h; exact peekFrom_of_held _ (q := BitStream.feed more _) hheld, nofun⟩
    | none =>
      have hfed : c.held (q.feed more) = none := hheld
      by_cases hb : 24 < q.bits
      · simp [hb]
      · simp only [List.cons_append, peekFrom, hfed, BitStream.feed_bits, BitStream.feed_pullByte, hb, ↓reduceIte]
        exact ih (q.pullByte b rest) rfl

theorem decode_codeLengths_feed {c : Code ClEntry} (h : decode (.codeLengths c) q = .starved none q') :
    decode (.codeLengths c) (q.feed more) = decode (.codeLengths c) (q'.feed more) := by
  simp only [decode] at h ⊢
  obtain ⟨k, p, cw, e, hpeek, -, hheld, -⟩ | ⟨p, hpeek, -⟩ | ⟨hpeek, -⟩ := decodePeek_cases c q
  · rw [hpeek] at h
    dsimp only at h
    obtain ⟨n, f, hfield⟩ := decodeClSymbol_starved h
    have hheld' : c.held q' = some (cw, e) := Code.held_of_pulls hheld (decodeField_pulls (hfield p ▸ h))
    have hfeed : decodePeek c (q'.feed more) = .found cw e (q'.feed more) :=
      peekFrom_of_held (q := q'.feed more) _ hheld'
    rw [decodePeek_feed.1 cw e hpeek, hfeed]
    simp only [hfield] at h ⊢
    exact decodeField_feed h
  · rw [hpeek] at h
    cases h
    rw [decodePeek_feed.2 hpeek]
  · rw [hpeek] at h
    cases h

/-- Decoding that ran out of input with nothing decoded goes on with the next input (40_bitstream.md R167). -/
theorem decode_feed {ctx : Context} (h : decode ctx q = .starved none q') :
    decode ctx (q.feed more) = decode ctx (q'.feed more) := by
  cases ctx with
  | head | flags | time | os | xlen | hcrc | dictid | adler32 | crc32 | isize | blockHeader | dynCounts | clLen =>
    exact decodeField_feed h
  | extra | name | comment | storedData =>
    obtain ⟨-, rfl⟩ := decodeRun_starved h
    rfl
  | storedLen =>
    have hwhole : (q'.feed more).bits % 8 = 0 := by
      obtain ⟨_, _, hd, -⟩ | ⟨p, hd, hp, -⟩ | ⟨hd, -⟩ := decodeField_cases 32
        (fun q' => .storedLenNlen (q'.hold.setWidth 16) ((q'.hold >>> 16).setWidth 16)) q.byteBits
      · cases hd.symm.trans h
      · cases hd.symm.trans h
        have hbits := hp.bits
        simp only [BitStream.byteBits, BitStream.drop_bits] at hbits
        rw [BitStream.feed_bits]
        omega
      · cases hd.symm.trans h
    have hfeed := decodeField_feed (more := more) h
    rw [← BitStream.byteBits_of_whole hwhole] at hfeed
    exact hfeed
  | codeLengths => exact decode_codeLengths_feed h
  | litLen c =>
    simp only [decode] at h ⊢
    obtain ⟨_, p, cw, e, hpeek, -⟩ | ⟨p, hpeek, -⟩ | ⟨hpeek, -⟩ := decodePeek_cases c q
    · rw [hpeek] at h
      obtain ⟨_, hp⟩ := decodeLlSymbol_starved h
      cases hp
    · rw [hpeek] at h
      cases h
      rw [decodePeek_feed.2 hpeek]
    · rw [hpeek] at h
      cases h
  | distance c =>
    simp only [decode] at h ⊢
    obtain ⟨_, p, cw, e, hpeek, -⟩ | ⟨p, hpeek, -⟩ | ⟨hpeek, -⟩ := decodePeek_cases c q
    · rw [hpeek] at h
      obtain ⟨_, hp⟩ := decodeDistSymbol_starved h
      cases hp
    · rw [hpeek] at h
      cases h
      rw [decodePeek_feed.2 hpeek]
    · rw [hpeek] at h
      cases h

/-- Settles O3: the first piece is `{ q with input := first }`, and both calls are fed the second. -/
theorem decodingResumesExactly : Obligations.DecodingResumesExactly := by
  intro ctx q q' first second h hi
  rw [← BitStream.feed_of_input_nil hi]
  exact (decode_feed h).symm

/-- An element that ran out of input with nothing decoded only pulled; STORED discards to the byte boundary first, and
has its own context (40_bitstream.md R167, 42_blocks.md R252). -/
theorem decode_starved_pulls {ctx : Context} (hctx : ctx ≠ .storedLen) (h : decode ctx q = .starved none q') :
    q.Pulls q' := by
  cases ctx with
  | storedLen => exact absurd rfl hctx
  | head | flags | time | os | xlen | hcrc | dictid | adler32 | crc32 | isize | blockHeader | dynCounts | clLen =>
    exact decodeField_pulls h
  | extra | name | comment | storedData =>
    obtain ⟨-, rfl⟩ := decodeRun_starved h
    exact .refl _
  | codeLengths c =>
    simp only [decode] at h
    split at h
    · next cw e p hpeek =>
      obtain ⟨n, f, hfield⟩ := decodeClSymbol_starved h
      exact (decodePeek_pulls (.inl ⟨cw, e, hpeek⟩)).trans (decodeField_pulls (hfield p ▸ h))
    · next hpeek =>
      cases h
      exact decodePeek_pulls (.inr hpeek)
    · cases h
  | litLen c =>
    simp only [decode] at h
    split at h
    · obtain ⟨_, hp⟩ := decodeLlSymbol_starved h
      cases hp
    · next hpeek =>
      cases h
      exact decodePeek_pulls (.inr hpeek)
    · cases h
  | distance c =>
    simp only [decode] at h
    split at h
    · obtain ⟨_, hp⟩ := decodeDistSymbol_starved h
      cases hp
    · next hpeek =>
      cases h
      exact decodePeek_pulls (.inr hpeek)
    · cases h

end

namespace Machine

/-- The step of a mode whose element the input cuts (40_bitstream.md R167). -/
theorem step_of_starved {s : State} {ctx : Context} {p : Option Pending} {q : BitStream} (hr : s.running = true)
    (ha : action s = .read ctx) (hd : decode ctx s.src = .starved p q) : step s = .next (starve p q s) := by
  simp [step, hr, stepCall, ha, hd]

/-- Settles O4: the call ends by `starve`; what was pulled before is kept by `Pulls`, and the rest by LEAVE. -/
theorem suspensionKeepsEveryBit : Obligations.SuspensionKeepsEveryBit := by
  intro s t ctx p q hq hr ha hd hs
  obtain rfl : starve p q s = t := Host.Outcome.next.inj ((step_of_starved hr ha hd).symm.trans hs)
  obtain ⟨hrunning, hsrc, -, -⟩ := starve_fields p q s
  refine ⟨hrunning, hsrc, ?_, ?_, ?_, ?_, ?_⟩
  · rintro rfl hctx
    exact (decode_starved_pulls hctx hd).stream hq
  · rintro rfl rfl
    exact (decodeField_pulls hd).stream (BitStream.byteBits_wf hq)
  · rintro rfl
    exact ⟨leave_mode _ _, leave_length _ _, leave_offset _ _, leave_extra _ _, leave_ncnt _ _, leave_lens _ _⟩
  · rintro k rfl
    exact ⟨leave_mode _ _, leave_length _ _, leave_extra _ _⟩
  · rintro k rfl
    exact ⟨leave_mode _ _, leave_offset _ _, leave_extra _ _, leave_length _ _⟩

end Machine

end Sys2Proof
end

section
/-! A built code covers every pattern (43_huffman.md R315): in a complete code the codewords of length `l` are the numbers from `2 * codeEnd (l - 1)` up to `codeEnd l`, so the first `l` whose end a pattern's `l`-bit head is below gives the codeword it begins with. -/

namespace Sys2Proof

/-- The number after the last codeword of length `l`, by the recurrence of 43_huffman.md R303. -/
def codeEnd (lens : List Nat) : Nat → Nat
  | 0 => 0
  | l + 1 => 2 * codeEnd lens l + lengthCount lens (l + 1)

/-- What is left of the budget is what lies above the last codeword (43_huffman.md R301). -/
theorem lengthBudget_add_codeEnd {lens : List Nat} {l left : Nat} (h : lengthBudget lens l = some left) :
    left + codeEnd lens l = 2 ^ l := by
  induction l generalizing left with
  | zero =>
    cases h
    rfl
  | succ l ih =>
    rw [lengthBudget] at h
    split at h
    · cases h
    next left' hleft =>
    split at h
    · cases h
      have := ih hleft
      rw [codeEnd, pow_succ]
      omega
    · cases h

theorem firstCodesFrom_length (lens ls : List Nat) (code count : Nat) :
    (firstCodesFrom lens ls code count).length = ls.length := by
  induction ls generalizing code count with
  | nil => rfl
  | cons l ls ih => rw [firstCodesFrom, List.length_cons, ih, List.length_cons]

theorem firstCodesFrom_getD (lens : List Nat) {n a code count i : Nat} (h : code + count = codeEnd lens a)
    (hi : i < n) : (firstCodesFrom lens (List.range' (a + 1) n) code count).getD i 0 = 2 * codeEnd lens (a + i) := by
  induction n generalizing a code count i with
  | zero => omega
  | succ n ih =>
    rw [List.range'_succ, firstCodesFrom]
    cases i with
    | zero => rw [List.getD_cons_zero, h, Nat.add_zero]
    | succ i =>
      rw [List.getD_cons_succ, ih (by rw [h, codeEnd]) (by omega), Nat.add_right_comm, Nat.add_assoc]

theorem firstCodes_length (lens : List Nat) : (firstCodes lens).length = 16 := by
  rw [firstCodes, List.length_cons, firstCodesFrom_length]
  rfl

/-- The first codeword of each length (43_huffman.md R303). -/
theorem firstCodes_getD (lens : List Nat) {l : Nat} (hl : l < 15) :
    (firstCodes lens).getD (l + 1) 0 = 2 * codeEnd lens l := by
  have hfrom := firstCodesFrom_getD lens (a := 0) (code := 0) (count := 0) rfl hl
  rw [Nat.zero_add, Nat.zero_add] at hfrom
  exact hfrom

/-- The codewords assigned to a length are the numbers from its first code on (43_huffman.md R303). -/
theorem mem_assignCodes {ε : Type} {entry : Nat → ε} {sym l c : Nat} {lens next : List Nat} (hl : l ≠ 0)
    (hlen : l < next.length) (hlo : next.getD l 0 ≤ c) (hhi : c < next.getD l 0 + lens.count l) :
    ∃ e, (⟨l, c⟩, e) ∈ assignCodes entry sym lens next := by
  induction lens generalizing sym next with
  | nil =>
    rw [List.count_nil] at hhi
    omega
  | cons a lens ih =>
    rw [assignCodes]
    rw [List.count_cons] at hhi
    obtain rfl | ha := eq_or_ne a l
    · rw [if_neg hl]
      have hset : (next.set a (next.getD a 0 + 1)).getD a 0 = next.getD a 0 + 1 := by
        simp [List.getElem?_set_self hlen]
      obtain hc | hc := hlo.eq_or_lt
      · exact ⟨_, List.mem_cons.2 (.inl (by rw [hc]))⟩
      · rw [if_pos (beq_self_eq_true a)] at hhi
        obtain ⟨e, he⟩ := ih (sym := sym + 1) (next := next.set a (next.getD a 0 + 1)) (by simpa using hlen)
          (hset.trans_le hc) (by omega)
        exact ⟨e, List.mem_cons_of_mem _ he⟩
    · rw [if_neg (by simpa using ha), Nat.add_zero] at hhi
      split
      · exact ih hlen hlo hhi
      · have hset : (next.set a (next.getD a 0 + 1)).getD l 0 = next.getD l 0 := by
          simp [List.getElem?_set_ne ha]
        obtain ⟨e, he⟩ := ih (sym := sym + 1) (by simpa using hlen) (hset.trans_le hlo) (hset ▸ hhi)
        exact ⟨e, List.mem_cons_of_mem _ he⟩

/-- Every number between the first code of a length and its end is a codeword (43_huffman.md R303). -/
theorem mem_canonicalCode {ε : Type} {entry : Nat → ε} {lens : List Nat} {l c : Nat} (hl : l < 15)
    (hlo : 2 * codeEnd lens l ≤ c) (hhi : c < codeEnd lens (l + 1)) :
    ∃ e, (⟨l + 1, c⟩, e) ∈ canonicalCode entry lens := by
  have hcount : lengthCount lens (l + 1) = lens.count (l + 1) := if_neg (Nat.succ_ne_zero l)
  rw [codeEnd, hcount] at hhi
  rw [← firstCodes_getD lens hl] at hlo hhi
  exact mem_assignCodes (Nat.succ_ne_zero l) (by rw [firstCodes_length]; omega) hlo hhi

/-- One bit less of a held codeword is the held codeword one bit shorter (43_huffman.md R305). -/
theorem heldCodeword_code_div_two (hold l : Nat) :
    (heldCodeword hold (l + 1)).code / 2 = (heldCodeword hold l).code := by
  simp only [heldCodeword]
  have hlt : revBits (l + 1) (hold % 2 ^ (l + 1)) / 2 < 2 ^ l :=
    Nat.div_lt_of_lt_mul ((revBits_lt (l + 1) _).trans_eq (pow_succ' 2 l))
  have hlow : bitsLsb l (hold % 2 ^ (l + 1)) = bitsLsb l (hold % 2 ^ l) :=
    bitsLsb_congr (by rw [Nat.mod_mod, Nat.mod_mod_of_dvd _ (pow_dvd_pow 2 (Nat.le_succ l))])
  have hdrop := bitsLsb_drop 1 (l + 1) (revBits (l + 1) (hold % 2 ^ (l + 1)))
  rw [bitsLsb_revBits, List.drop_reverse, bitsLsb_length, Nat.add_sub_cancel, bitsLsb_take (Nat.le_succ l), hlow,
    ← bitsLsb_revBits, Nat.shiftRight_one] at hdrop
  exact (bitsLsb_inj (revBits_lt l _) hlt hdrop).symm

/-- A pattern whose head of some length is below that length's end begins with a codeword. -/
theorem exists_length_of_lt_codeEnd (lens : List Nat) (hold : Nat) {l : Nat}
    (h : (heldCodeword hold l).code < codeEnd lens l) :
    ∃ w < l, 2 * codeEnd lens w ≤ (heldCodeword hold (w + 1)).code ∧
      (heldCodeword hold (w + 1)).code < codeEnd lens (w + 1) := by
  induction l with
  | zero => exact absurd h (Nat.not_lt_zero _)
  | succ l ih =>
    rcases Nat.lt_or_ge (heldCodeword hold (l + 1)).code (2 * codeEnd lens l) with hlt | hge
    · obtain ⟨w, hw, hcode⟩ := ih (by rw [← heldCodeword_code_div_two]; omega)
      exact ⟨w, by omega, hcode⟩
    · exact ⟨l, Nat.lt_succ_self l, hge, h⟩

/-- A code is covering when every pattern begins with one of its codewords (43_huffman.md R315). -/
theorem Code.covers_of_mem {ε : Type} {c : Code ε}
    (h : ∀ hold, ∃ w, 1 ≤ w ∧ w ≤ 15 ∧ ∃ e, (heldCodeword hold w, e) ∈ c) : c.covers := by
  intro hold
  obtain ⟨w, hw1, hw2, e, he⟩ := h hold
  refine Option.isSome_iff_ne_none.2 fun hnone => ?_
  have hlook := Code.firstMatch_none.1 hnone w hw1 (by simp only [Config.maxBits]; omega)
  simp only [Code.lookup, Option.map_eq_none_iff, List.find?_eq_none] at hlook
  simpa using hlook _ he

/-- A complete code covers every pattern (43_huffman.md R315). -/
theorem canonicalCode_covers {ε : Type} (entry : Nat → ε) {lens : List Nat}
    (h : lengthBudget lens Config.maxBits = some 0) : (canonicalCode entry lens).covers := by
  have hend : codeEnd lens 15 = 2 ^ 15 := (Nat.zero_add _).symm.trans (lengthBudget_add_codeEnd h)
  refine Code.covers_of_mem fun hold => ?_
  obtain ⟨w, hw, hlo, hhi⟩ := exists_length_of_lt_codeEnd lens hold (l := 15) (by rw [hend]; exact revBits_lt 15 _)
  exact ⟨w + 1, by omega, by omega, mem_canonicalCode hw hlo hhi⟩

/-- The one bit held is one of the two codewords of length 1. -/
theorem heldCodeword_one (hold : Nat) : heldCodeword hold 1 = ⟨1, 0⟩ ∨ heldCodeword hold 1 = ⟨1, 1⟩ := by
  have := revBits_lt 1 (hold % 2 ^ 1)
  simp only [heldCodeword, Codeword.mk.injEq, true_and]
  omega

/-- Both codewords of length 1 cover every pattern (43_huffman.md R302: the empty and the incomplete code). -/
theorem Code.covers_of_both {ε : Type} {c : Code ε} (h0 : ∃ e, (⟨1, 0⟩, e) ∈ c) (h1 : ∃ e, (⟨1, 1⟩, e) ∈ c) :
    c.covers :=
  Code.covers_of_mem fun hold => ⟨1, le_rfl, by decide, (heldCodeword_one hold).elim (· ▸ h0) (· ▸ h1)⟩

/-- The longest length is one of the lengths. -/
theorem maxLength_mem {lens : List Nat} (h : maxLength lens ≠ 0) : maxLength lens ∈ lens :=
  (List.mem_cons.1 (List.max?_mem (xs := 0 :: lens) rfl)).resolve_left h

/-- Every code that BuildCode answers covers every pattern (43_huffman.md R302, R315). -/
theorem buildCode_covers {ε : Type} {kind : CodeKind} {entry : Nat → ε} {invalid : ε} {lens : List Nat} {c : Code ε}
    (h : buildCode kind entry invalid lens = some c) : c.covers := by
  unfold buildCode at h
  split at h
  · cases h
    exact Code.covers_of_both ⟨invalid, by simp⟩ ⟨invalid, by simp⟩
  next hmax =>
  split at h
  · cases h
  · next hbudget =>
    cases h
    exact canonicalCode_covers entry hbudget
  · split at h
    · cases h
    next hone =>
    cases h
    have hmem : 1 ∈ lens := by
      simp only [not_or, not_not] at hone
      exact hone.2 ▸ maxLength_mem hmax
    have hcount : 0 < lens.count 1 := List.count_pos_iff.2 hmem
    obtain ⟨e, he⟩ := mem_canonicalCode (entry := entry) (lens := lens) (l := 0) (c := 0) (by decide) (Nat.le_refl 0)
      (by simpa [codeEnd, lengthCount] using hmem)
    exact Code.covers_of_both ⟨e, List.mem_append_left _ he⟩ ⟨invalid, by simp⟩

theorem fixedLl_covers : fixedLl.covers := by
  rw [fixedLl_eq_canonicalCode]
  exact canonicalCode_covers _ (by decide +kernel)

theorem fixedDist_covers : fixedDist.covers := by
  rw [fixedDist_eq_canonicalCode]
  exact canonicalCode_covers _ (by decide +kernel)

end Sys2Proof
end

section
/-! What decoding relies on is kept by every step (40_bitstream.md R168 to R172, 43_huffman.md R315, 10_state.md R42 to R44): in each mode the element read, the wait for more input, and the move of a mode that reads none end in a state whose bits, codes and scratch fields the next mode allows. A state in mode `m` is written `s.goto m`, so that what `DecodeOk` says of the mode can be read off. -/

namespace Sys2Proof.Machine

/-! ### What `DecodeOk` speaks of -/

/-- The fields `DecodeOk` speaks of. -/
def State.decoding (s : State) : Mode × Nat × U32 × Wrap × Byte × Fmt × Nat × Nat × Nat × Nat × Nat × Nat × Nat ×
    List (BitVec 4) × Code LlEntry × Code DistEntry × Code ClEntry :=
  (s.mode, s.src.bits, s.src.hold, s.wrap, s.gflg, s.fmt, s.length, s.offset, s.extra, s.nlen, s.ndist, s.ncode,
    s.ncnt, s.lens, s.lcode, s.dcode, s.clcode)

/-- Nothing else matters to the decoder. -/
theorem DecodeOk.of_same {s u : State} (h : DecodeOk s) (hsame : u.decoding = s.decoding) : DecodeOk u := by
  simp only [State.decoding, Prod.mk.injEq] at hsame
  obtain ⟨hmode, hbits, hhold, hwrap, hgflg, hfmt, hlength, hoffset, hextra, hnlen, hndist, hncode, hncnt, hlens,
    hlcode, hdcode, hclcode⟩ := hsame
  obtain ⟨hb, hc, hs, hl⟩ := h
  refine ⟨?_, ?_, ?_, hlens ▸ hl⟩
  · unfold bitsBound clWaits Code.held at hb ⊢
    rwa [hmode, hbits, hhold, hwrap, hgflg, hfmt, hextra, hnlen, hndist, hncnt, hlcode, hdcode, hclcode]
  · unfold codesBound at hc ⊢
    rwa [hmode, hlcode, hdcode, hclcode]
  · unfold scratchBound at hs ⊢
    rwa [hmode, hgflg, hlength, hoffset, hextra, hnlen, hndist, hncode, hncnt]

/-- In BAD and MEM nothing is decoded. -/
theorem DecodeOk.of_error {s : State} (hm : s.mode = .bad ∨ s.mode = .mem) (hl : s.lens.length = 320) :
    DecodeOk s := by
  obtain hm | hm := hm
  · exact ⟨by simp [bitsBound, hm], by simp [codesBound, hm], by simp [scratchBound, hm], hl⟩
  · exact ⟨by simp [bitsBound, hm], by simp [codesBound, hm], by simp [scratchBound, hm], hl⟩

/-- LEAVE keeps the mode and its fields, or enters MEM (46_host.md R450). -/
theorem DecodeOk.leave {s : State} (h : DecodeOk s) (r : Status) : DecodeOk (leave r s) := by
  obtain hm | ⟨hm, -⟩ := leave_mode r s
  · exact h.of_same (by simp [State.decoding, hm])
  · exact .of_error (.inr hm) (by simpa using h.lens)

/-- The end of an element: what is held, unless it failed, is less than a byte (40_bitstream.md R168). -/
structure Settled (t : State) : Prop where
  ok : DecodeOk t
  boundary : t.mode ≠ .bad → t.src.bits ≤ 7

theorem Settled.raise {s : State} {e : Msg} (hl : s.lens.length = 320) : Settled (s.raise e) :=
  ⟨.of_error (.inl rfl) hl, fun h => absurd rfl h⟩

theorem Settled.leave {s : State} (h : Settled s) (hm : s.mode ≠ .bad) (r : Status) : Settled (leave r s) :=
  ⟨h.ok.leave r, fun _ => by simpa using h.boundary hm⟩

theorem Settled.stopForTrees {s : State} (h : Settled s) (hm : s.mode ≠ .bad) : Settled (stopForTrees s) := by
  unfold Machine.stopForTrees
  split
  · exact h.leave hm .ok
  · exact h

/-- What a state in good order may answer a decoder: an element with a meaning that settles, or a wait for more input
that keeps it in good order; never an overflow (40_bitstream.md R167 to R169). -/
def Leads (s : State) : Fetched → Prop
  | .element i q => ∃ t, exec i { s with src := q } = .next t ∧ Settled t
  | .starved p q => DecodeOk (starve p q s)
  | .overflow => False

/-- A field that pulls whole bytes up to its width leads on. -/
theorem decodeField_leads {n : Nat} {f : BitStream → Instr} {q : BitStream} {s : State} (hcan : q.CanNeed n)
    (hfound : ∀ q', n ≤ q'.bits → q'.bits ≤ max q.bits (n + 7) →
      ∃ t, exec (f q') { s with src := q' } = .next t ∧ Settled t)
    (hwait : ∀ q', q.Pulls q' → q'.bits < n → q'.bits % 8 = q.bits % 8 → DecodeOk { s with src := q' }) :
    Leads s (decodeField n f q) := by
  obtain ⟨k, q', hd, hp, hle, hlt⟩ | ⟨q', hd, hp, hlt⟩ | ⟨hd, k, -, hfull, hlt⟩ := decodeField_cases n f q
  · have hbits := hp.bits
    rw [hd]
    exact hfound q' hle (by omega)
  · have hbits := hp.bits
    rw [hd]
    exact (hwait q' (decodeField_pulls hd) hlt (by omega)).leave .ok
  · unfold BitStream.CanNeed at hcan
    omega

/-- A run that ends with the input waits with nothing taken. -/
theorem decodeRun_leads {data : List Byte} {f : List Byte → Instr} {s : State} (h : DecodeOk s)
    (hfound : ∃ t, exec (f data) { s with src := s.src.takeBytes data.length } = .next t ∧ Settled t) :
    Leads s (decodeRun data f s.src) := by
  unfold decodeRun
  split
  · exact h.leave .ok
  · exact hfound

/-- The extra bits of a symbol lead on (44_symbols.md R352, R354). -/
theorem decodeExtra_leads {n : Nat} {p : Pending} {f : Nat → Instr} {q : BitStream} {s : State} (hn : n ≤ 25)
    (hfound : ∀ q', q'.bits ≤ max q.bits (n + 7) →
      ∃ t, exec (f (q'.peekBits n)) { s with src := q' } = .next t ∧ Settled t)
    (hwait : ∀ q', q'.bits < n → DecodeOk (starve (some p) q' s)) :
    Leads s (decodeExtra n p f q) := by
  obtain ⟨k, q', hd, hp, hle, hlt⟩ | ⟨q', hd, hp, hlt⟩ | ⟨hd, k, -, hfull, hlt⟩ := decodeExtra_cases n p f q
  · have hbits := hp.bits
    rw [hd]
    exact hfound q' (by omega)
  · rw [hd]
    exact hwait q' hlt
  · omega

/-- DecodePeek with a code that covers every pattern finds a codeword or waits for one (43_huffman.md R315). -/
theorem decodePeek_of_covers {ε : Type} {c : Code ε} (hc : c.covers) (q : BitStream) :
    (∃ q' cw e, decodePeek c q = .found cw e q' ∧ c.held q' = some (cw, e) ∧
      (q' = q ∨ c.held q = none ∧ q'.bits < cw.len + 8)) ∨
    ∃ q', decodePeek c q = .starved q' ∧ c.held q' = none := by
  obtain ⟨_, q', cw, e, hd, -, hheld, hbits⟩ | ⟨q', hd, -, hheld⟩ | ⟨-, q', hfull, hheld⟩ := decodePeek_cases c q
  · exact .inl ⟨q', cw, e, hd, hheld, hbits.imp_left And.right⟩
  · exact .inr ⟨q', hd, hheld⟩
  · exact absurd hheld (hc.held (by simp only [Config.maxBits]; omega))

/-! ### The wrapper elements -/

section

variable {s : State}

theorem execZlibHeader_settled {cmf flg : Byte} (hl : s.lens.length = 320) :
    ∃ t, execZlibHeader cmf flg s = .next t ∧ Settled t := by
  refine ⟨_, rfl, ?_⟩
  generalize (fun r : HeaderRecord => { r with done := -1 }) = f
  rw [show (if s.wbits = 0 then { s.mapHead f with wbits := zlibWindowBits cmf } else s.mapHead f) =
      { s.mapHead f with wbits := if s.wbits = 0 then zlibWindowBits cmf else s.wbits } by split <;> rfl]
  generalize (if s.wbits = 0 then zlibWindowBits cmf else s.wbits) = b
  split
  · exact .raise hl
  split
  · exact .raise hl
  split
  · exact .raise hl
  split
  · exact .raise hl
  · unfold zlibAccept
    cases zlibFdict flg
    · exact ⟨⟨Nat.zero_le 7, trivial, trivial, hl⟩, fun _ => Nat.zero_le 7⟩
    · exact ⟨⟨⟨rfl, Nat.zero_le 24⟩, trivial, trivial, hl⟩, fun _ => Nat.zero_le 7⟩

theorem leads_head (h : DecodeOk (s.goto .head)) (hw : s.wrap ≠ .none) :
    Leads (s.goto .head) (decode (.head s.wrap) s.src) := by
  have hb : s.src.bits = 0 ∨ s.src.bits = 8 ∧ s.wrap ≠ .none := h.bits
  refine decodeField_leads (.inl (by decide)) (fun q' _ _ => ?_) fun q' _ hlt hwhole => ?_
  · unfold headInstr
    split
    · exact ⟨_, rfl, ⟨.inl rfl, trivial, trivial, h.lens⟩, fun _ => Nat.zero_le 7⟩
    · exact execZlibHeader_settled h.lens
  · exact ⟨(show q'.bits = 0 ∨ q'.bits = 8 by omega).imp_right (⟨·, hw⟩), trivial, trivial, h.lens⟩

theorem leads_flags (h : DecodeOk (s.goto .flags)) : Leads (s.goto .flags) (decode .flags s.src) := by
  have hb : s.src.bits = 0 ∨ s.src.bits = 8 := h.bits
  refine decodeField_leads (.inl (by decide)) (fun q' _ _ => ⟨_, rfl, ?_⟩) fun q' _ hlt hwhole => ?_
  · split
    · exact .raise h.lens
    split
    · exact .raise h.lens
    · exact ⟨⟨⟨rfl, Nat.zero_le 24⟩, trivial, trivial, h.lens⟩, fun _ => Nat.zero_le 7⟩
  · exact ⟨show q'.bits = 0 ∨ q'.bits = 8 by omega, trivial, trivial, h.lens⟩

theorem leads_time (h : DecodeOk (s.goto .time)) : Leads (s.goto .time) (decode .time s.src) := by
  have hb : s.src.bits % 8 = 0 ∧ s.src.bits ≤ 24 := h.bits
  refine decodeField_leads (.inr ⟨hb.1, by decide⟩) (fun q' _ _ => ⟨_, rfl, ?_⟩) fun q' _ hlt hwhole => ?_
  · exact ⟨⟨.inl rfl, trivial, trivial, h.lens⟩, fun _ => Nat.zero_le 7⟩
  · exact ⟨show q'.bits % 8 = 0 ∧ q'.bits ≤ 24 by omega, trivial, trivial, h.lens⟩

theorem leads_os (h : DecodeOk (s.goto .os)) : Leads (s.goto .os) (decode .os s.src) := by
  have hb : s.src.bits = 0 ∨ s.src.bits = 8 := h.bits
  refine decodeField_leads (.inl (by decide)) (fun q' _ _ => ⟨_, rfl, ?_⟩) fun q' _ hlt hwhole => ?_
  · exact ⟨⟨.inl rfl, trivial, trivial, h.lens⟩, fun _ => Nat.zero_le 7⟩
  · exact ⟨show q'.bits = 0 ∨ q'.bits = 8 by omega, trivial, trivial, h.lens⟩

theorem leads_xlen (h : DecodeOk (s.goto .exlen)) (hf : fextra s.gflg = true) :
    Leads (s.goto .exlen) (decode .xlen s.src) := by
  have hb : s.src.bits = 0 ∨ s.src.bits = 8 ∧ fextra s.gflg = true := h.bits
  refine decodeField_leads (.inl (by decide)) (fun q' _ _ => ⟨_, rfl, ?_⟩) fun q' _ hlt hwhole => ?_
  · exact ⟨⟨rfl, trivial, fun _ => BitVec.isLt _, h.lens⟩, fun _ => Nat.zero_le 7⟩
  · exact ⟨(show q'.bits = 0 ∨ q'.bits = 8 by omega).imp_right (⟨·, hf⟩), trivial, trivial, h.lens⟩

theorem leads_extra (h : DecodeOk (s.goto .extra)) (hf : fextra s.gflg = true) (data : List Byte) :
    Leads (s.goto .extra) (decodeRun data .gzipExtra s.src) := by
  have hb : s.src.bits = 0 := h.bits
  have hlen : s.length < 2 ^ 16 := h.scratch hf
  refine decodeRun_leads h ⟨_, rfl, ?_⟩
  split
  · exact ⟨⟨hb, trivial, trivial, h.lens⟩, fun _ => by simp [hb]⟩
  · exact ⟨⟨hb, trivial, fun _ => (Nat.sub_le _ _).trans_lt hlen, h.lens⟩, fun _ => by simp [hb]⟩

theorem leads_name (h : DecodeOk (s.goto .name)) (data : List Byte) :
    Leads (s.goto .name) (decodeRun data .gzipName s.src) := by
  have hb : s.src.bits = 0 := h.bits
  refine decodeRun_leads h ⟨_, rfl, ?_⟩
  split
  · exact ⟨⟨hb, trivial, trivial, h.lens⟩, fun _ => by simp [hb]⟩
  · exact ⟨⟨hb, trivial, trivial, h.lens⟩, fun _ => by simp [hb]⟩

theorem leads_comment (h : DecodeOk (s.goto .comment)) (data : List Byte) :
    Leads (s.goto .comment) (decodeRun data .gzipComment s.src) := by
  have hb : s.src.bits = 0 := h.bits
  refine decodeRun_leads h ⟨_, rfl, ?_⟩
  split
  · exact ⟨⟨.inl hb, trivial, trivial, h.lens⟩, fun _ => by simp [hb]⟩
  · exact ⟨⟨hb, trivial, trivial, h.lens⟩, fun _ => by simp [hb]⟩

theorem leads_hcrc (h : DecodeOk (s.goto .hcrc)) (hf : fhcrc s.gflg = true) :
    Leads (s.goto .hcrc) (decode .hcrc s.src) := by
  have hb : s.src.bits = 0 ∨ s.src.bits = 8 ∧ fhcrc s.gflg = true := h.bits
  refine decodeField_leads (.inl (by decide)) (fun q' _ _ => ⟨_, rfl, ?_⟩) fun q' _ hlt hwhole => ?_
  · split
    · exact .raise h.lens
    · exact ⟨⟨Nat.zero_le 7, trivial, trivial, h.lens⟩, fun _ => Nat.zero_le 7⟩
  · exact ⟨(show q'.bits = 0 ∨ q'.bits = 8 by omega).imp_right (⟨·, hf⟩), trivial, trivial, h.lens⟩

theorem leads_dictid (h : DecodeOk (s.goto .dictid)) : Leads (s.goto .dictid) (decode .dictid s.src) := by
  have hb : s.src.bits % 8 = 0 ∧ s.src.bits ≤ 24 := h.bits
  refine decodeField_leads (.inr ⟨hb.1, by decide⟩) (fun q' _ _ => ⟨_, rfl, ?_⟩) fun q' _ hlt hwhole => ?_
  · exact ⟨⟨rfl, trivial, trivial, h.lens⟩, fun _ => Nat.zero_le 7⟩
  · exact ⟨show q'.bits % 8 = 0 ∧ q'.bits ≤ 24 by omega, trivial, trivial, h.lens⟩

theorem checkTrailer_settled {v : U32} (hl : s.lens.length = 320) : Settled (checkTrailer v s) := by
  unfold checkTrailer
  split
  · exact .raise hl
  · exact ⟨⟨.inl rfl, trivial, trivial, hl⟩, fun _ => Nat.zero_le 7⟩

/-- The trailer's check value, of either format (41_wrapper.md R205). -/
theorem leads_check (h : DecodeOk (s.goto .check)) (hw : s.wrap ≠ .none) {f : BitStream → Instr}
    (hf : ∀ q u, ∃ v, exec (f q) u = .next (checkTrailer v u)) : Leads (s.goto .check) (decodeField 32 f s.src) := by
  have hb : s.src.bits = 0 ∨ s.src.bits % 8 = 0 ∧ s.src.bits ≤ 24 ∧ s.wrap ≠ .none := h.bits
  refine decodeField_leads (.inr ⟨by omega, le_rfl⟩) (fun q' _ _ => ?_) fun q' _ hlt hwhole => ?_
  · obtain ⟨v, hv⟩ := hf q' { s.goto .check with src := q' }
    exact ⟨_, hv, checkTrailer_settled h.lens⟩
  · have hbits : q'.bits % 8 = 0 ∧ q'.bits ≤ 24 := by omega
    exact ⟨.inr ⟨hbits.1, hbits.2, hw⟩, trivial, trivial, h.lens⟩

theorem leads_isize (h : DecodeOk (s.goto .length)) (hw : s.wrap ≠ .none) (hg : s.fmt = .gzip) :
    Leads (s.goto .length) (decode .isize s.src) := by
  have hb : s.src.bits = 0 ∨ s.src.bits % 8 = 0 ∧ s.src.bits ≤ 24 ∧ s.wrap ≠ .none ∧ s.fmt = .gzip := h.bits
  refine decodeField_leads (.inr ⟨by omega, le_rfl⟩) (fun q' _ _ => ⟨_, rfl, ?_⟩) fun q' _ hlt hwhole => ?_
  · split
    · exact .raise h.lens
    · exact ⟨⟨rfl, trivial, trivial, h.lens⟩, fun _ => Nat.zero_le 7⟩
  · have hbits : q'.bits % 8 = 0 ∧ q'.bits ≤ 24 := by omega
    exact ⟨.inr ⟨hbits.1, hbits.2, hw, hg⟩, trivial, trivial, h.lens⟩

end

/-! ### The block elements -/

section

variable {s : State}

/-- A block enters LEN_ with codes that cover every pattern (42_blocks.md R258, R259). -/
theorem enterLen_settled {l : Code LlEntry} {d : Code DistEntry} (hl : l.covers) (hd : d.covers)
    (hb : s.src.bits ≤ 7) (hlens : s.lens.length = 320) :
    Settled (stopForTrees ({ s with lcode := l, dcode := d }.goto .len_)) :=
  Settled.stopForTrees ⟨⟨hb, ⟨hl, hd⟩, trivial, hlens⟩, fun _ => hb⟩ nofun

theorem execBlockFixed_settled {final : Bool} (hb : s.src.bits - 3 ≤ 7) (hlens : s.lens.length = 320) :
    ∃ t, execBlockFixed final s = .next t ∧ Settled t :=
  ⟨_, rfl, enterLen_settled (s := blockHeader final s) fixedLl_covers fixedDist_covers hb hlens⟩

theorem leads_blockHeader (h : DecodeOk (s.goto .typedo)) :
    Leads (s.goto .typedo) (decode .blockHeader s.src) := by
  have hb : s.src.bits ≤ 7 := h.bits
  refine decodeField_leads (.inl (by decide)) (fun q' hle hmax => ?_) fun q' _ hlt _ => ?_
  · have hdrop : q'.bits - 3 ≤ 7 := by omega
    unfold blockInstr
    dsimp only
    split
    · exact ⟨_, rfl, ⟨.inl hdrop, trivial, trivial, h.lens⟩, fun _ => hdrop⟩
    · exact execBlockFixed_settled hdrop h.lens
    · exact ⟨_, rfl, ⟨show q'.bits - 3 ≤ 13 by omega, trivial, trivial, h.lens⟩, fun _ => hdrop⟩
    · exact ⟨_, rfl, .raise h.lens⟩
  · exact ⟨show q'.bits ≤ 7 by omega, trivial, trivial, h.lens⟩

theorem leads_storedLen (h : DecodeOk (s.goto .stored)) : Leads (s.goto .stored) (decode .storedLen s.src) := by
  have hb : s.src.bits ≤ 7 ∨ s.src.bits % 8 = 0 ∧ s.src.bits ≤ 24 := h.bits
  have hwhole : s.src.byteBits.bits % 8 = 0 := by
    simp only [BitStream.byteBits, BitStream.drop_bits]
    omega
  refine decodeField_leads (.inr ⟨hwhole, le_rfl⟩) (fun q' _ _ => ⟨_, rfl, ?_⟩) fun q' _ hlt hwhole' => ?_
  · split
    · exact .raise h.lens
    · exact Settled.stopForTrees ⟨⟨rfl, trivial, BitVec.isLt _, h.lens⟩, fun _ => Nat.zero_le 7⟩ nofun
  · exact ⟨.inr (show q'.bits % 8 = 0 ∧ q'.bits ≤ 24 by omega), trivial, trivial, h.lens⟩

theorem execStoredData_settled {data : List Byte} (h : DecodeOk { s with length := s.length - data.length })
    (hb : s.src.bits = 0) : ∃ t, execStoredData data s = .next t ∧ Settled t :=
  ⟨_, rfl, h.of_same (by simp [State.decoding]), fun _ => by simp [hb]⟩

theorem leads_storedData (h : DecodeOk (s.goto .copy)) (data : List Byte) :
    Leads (s.goto .copy) (decodeRun data .storedData s.src) := by
  have hb : s.src.bits = 0 := h.bits
  have hlen : s.length < 2 ^ 16 := h.scratch
  exact decodeRun_leads h (execStoredData_settled ⟨hb, trivial, (Nat.sub_le _ _).trans_lt hlen, h.lens⟩ hb)

theorem leads_dynCounts (h : DecodeOk (s.goto .table)) : Leads (s.goto .table) (decode .dynCounts s.src) := by
  have hb : s.src.bits ≤ 13 := h.bits
  refine decodeField_leads (.inl (by decide)) (fun q' hle hmax => ⟨_, rfl, ?_⟩) fun q' _ hlt _ => ?_
  · have hdrop : q'.bits - 14 ≤ 7 := by omega
    split
    · exact .raise h.lens
    next hcounts =>
      refine ⟨⟨hdrop, trivial, ?_, h.lens⟩, fun _ => hdrop⟩
      have hncode (v : BitVec 4) : 4 ≤ ncodeOf v ∧ ncodeOf v ≤ 19 := by
        unfold ncodeOf
        omega
      have hnlen (v : BitVec 5) : 257 ≤ nlenOf v := Nat.le_add_left _ _
      have hndist (v : BitVec 5) : 1 ≤ ndistOf v := Nat.le_add_left _ _
      simp only [not_or, not_lt] at hcounts
      exact ⟨Nat.zero_le _, (hncode _).1, (hncode _).2, hnlen _, hcounts.1, hndist _, hcounts.2⟩
  · exact ⟨show q'.bits ≤ 13 by omega, trivial, trivial, h.lens⟩

theorem leads_clLen (h : DecodeOk (s.goto .lenlens)) (hn : s.ncnt < s.ncode) :
    Leads (s.goto .lenlens) (decode .clLen s.src) := by
  have hb : s.src.bits ≤ 7 := h.bits
  obtain ⟨-, hscratch⟩ := h.scratch
  refine decodeField_leads (.inl (by decide)) (fun q' hle hmax => ⟨_, rfl, ?_⟩) fun q' _ hlt _ => ?_
  · have hdrop : q'.bits - 3 ≤ 7 := by omega
    exact ⟨⟨hdrop, trivial, ⟨hn, hscratch⟩, List.length_set.trans h.lens⟩, fun _ => hdrop⟩
  · exact ⟨show q'.bits ≤ 7 by omega, trivial, h.scratch, h.lens⟩

theorem zeroClLens_lens_length (positions : List Nat) (s : State) :
    (zeroClLens positions s).lens.length = s.lens.length := by
  induction positions generalizing s with
  | nil => rfl
  | cons i is ih => exact (ih _).trans List.length_set

/-- LENLENS with all its lengths read (42_blocks.md R256). -/
theorem buildClTable_ok (h : DecodeOk (s.goto .lenlens)) : DecodeOk (buildClTable (s.goto .lenlens)) := by
  have hb : s.src.bits ≤ 7 := h.bits
  obtain ⟨-, -, -, hscratch⟩ := h.scratch
  unfold buildClTable
  obtain ⟨l, hl⟩ := zeroClLens_eq ((List.range 19).drop s.ncnt) (s.goto .lenlens)
  have hlens := zeroClLens_lens_length ((List.range 19).drop s.ncnt) (s.goto .lenlens)
  rw [hl] at hlens
  have hlens : l.length = 320 := hlens.trans h.lens
  simp only [State.goto_ncnt]
  rw [hl]
  split
  · exact .of_error (.inl rfl) hlens
  · next c hbuild => exact ⟨.inl hb, buildCode_covers hbuild, ⟨Nat.zero_le _, hscratch⟩, hlens⟩

theorem pushLens_lens_length (len : BitVec 4) (n : Nat) (s : State) :
    (pushLens len n s).lens.length = s.lens.length := by
  induction n generalizing s with
  | zero => rfl
  | succ n ih => exact (ih _).trans List.length_set

/-- Code lengths read within their number, with the element's bits dropped (42_blocks.md R257). -/
theorem pushLens_settled {len : BitVec 4} {n : Nat} (h : DecodeOk (s.goto .codelens)) (hb : s.src.bits ≤ 7)
    (hn : s.ncnt + n ≤ s.nlen + s.ndist) : Settled (pushLens len n (s.goto .codelens)) := by
  obtain ⟨-, hscratch⟩ := h.scratch
  obtain ⟨l, hl⟩ := pushLens_eq len n (s.goto .codelens)
  have hlens := pushLens_lens_length len n (s.goto .codelens)
  rw [hl] at hlens ⊢
  exact ⟨⟨.inl hb, h.codes, ⟨hn, hscratch⟩, hlens.trans h.lens⟩, fun _ => hb⟩

theorem repeatLens_settled {len : BitVec 4} {n : Nat} (h : DecodeOk (s.goto .codelens)) (hb : s.src.bits ≤ 7) :
    Settled (repeatLens len n (s.goto .codelens)) := by
  unfold repeatLens
  split
  · exact .raise h.lens
  next hn => exact pushLens_settled h hb (Nat.not_lt.1 hn)

/-- A codeword of the code-length code is found with less than a byte held behind it, also where a repeat waited for
its extra bits (42_blocks.md R257). -/
theorem clWaits_found {c : Code ClEntry} {q q' : BitStream} {cw : Codeword} {e : ClEntry}
    (hq : q.bits ≤ 7 ∨ clWaits c q) (hheld : c.held q' = some (cw, e))
    (hq' : q' = q ∨ c.held q = none ∧ q'.bits < cw.len + 8) : q'.bits < cw.len + 8 := by
  obtain rfl | ⟨-, hlt⟩ := hq'
  · obtain hle | hwait := hq
    · omega
    · simp only [clWaits, hheld] at hwait
      omega
  · exact hlt

/-- A repeat leads on once its codeword is held: `n` is the width of its extra bits (42_blocks.md R257). -/
theorem decodeRepeat_leads {n : Nat} {f : BitStream → Instr} {cw : Codeword} {e : ClEntry} {q : BitStream}
    (h : DecodeOk (s.goto .codelens)) (hcnt : s.ncnt < s.nlen + s.ndist) (hheld : s.clcode.held q = some (cw, e))
    (hq : q.bits < cw.len + 8) (hn : e.value = 16 ∧ n = 2 ∨ e.value = 17 ∧ n = 3 ∨ e.value = 18 ∧ n = 7)
    (hf : ∀ q', ((q'.drop cw.len).drop n).bits ≤ 7 →
      ∃ t, exec (f q') { s.goto .codelens with src := q' } = .next t ∧ Settled t) :
    Leads (s.goto .codelens) (decodeField (cw.len + n) f q) := by
  obtain ⟨-, -, hwidth⟩ := Code.held_width hheld
  simp only [Config.maxBits] at hwidth
  refine decodeField_leads (.inl (by omega)) (fun q' hle hmax => hf q' ?_) fun q' hpulls hlt _ => ?_
  · simp only [BitStream.drop_bits]
    omega
  · refine ⟨.inr ⟨hcnt, ?_⟩, h.codes, h.scratch, h.lens⟩
    have hheld' : s.clcode.held q' = some (cw, e) := Code.held_of_pulls hheld hpulls
    simp only [State.goto_clcode, clWaits, hheld']
    omega

theorem leads_codeLengths (h : DecodeOk (s.goto .codelens)) (hcnt : s.ncnt < s.nlen + s.ndist) :
    Leads (s.goto .codelens) (decode (.codeLengths s.clcode) s.src) := by
  have hb : s.src.bits ≤ 7 ∨ s.ncnt < s.nlen + s.ndist ∧ clWaits s.clcode s.src := h.bits
  have hsrc (q : BitStream) (hq : q.bits ≤ 7) : DecodeOk ({ s with src := q }.goto .codelens) :=
    ⟨.inl hq, h.codes, h.scratch, h.lens⟩
  have hcovers : s.clcode.covers := h.codes
  simp only [decode]
  obtain ⟨q, cw, e, hd, hheld, hfound⟩ | ⟨q, hd, hheld⟩ := decodePeek_of_covers hcovers s.src
  · have hq := clWaits_found (hb.imp_right And.right) hheld hfound
    rw [hd]
    dsimp only
    unfold decodeClSymbol
    split
    · have hdrop : (q.drop cw.len).bits ≤ 7 := by
        simp only [BitStream.drop_bits]
        omega
      exact ⟨_, rfl, pushLens_settled (hsrc _ hdrop) hdrop hcnt⟩
    split
    · next hv =>
      refine decodeRepeat_leads h hcnt hheld hq (.inl ⟨hv, rfl⟩) fun q' hdrop => ⟨_, rfl, ?_⟩
      split
      · exact .raise h.lens
      · exact repeatLens_settled (hsrc _ hdrop) hdrop
    split
    · next hv =>
      exact decodeRepeat_leads h hcnt hheld hq (.inr (.inl ⟨hv, rfl⟩)) fun q' hdrop =>
        ⟨_, rfl, repeatLens_settled (hsrc _ hdrop) hdrop⟩
    · have hv : e.value = 18 := by
        cases e with
        | sym v =>
          simp only [ClEntry.value] at *
          omega
        | invalid => simp [ClEntry.value] at *
      exact decodeRepeat_leads h hcnt hheld hq (.inr (.inr ⟨hv, rfl⟩)) fun q' hdrop =>
        ⟨_, rfl, repeatLens_settled (hsrc _ hdrop) hdrop⟩
  · rw [hd]
    refine DecodeOk.leave (s := { s.goto .codelens with src := q }) ⟨.inr ⟨hcnt, ?_⟩, h.codes, h.scratch, h.lens⟩ .ok
    simp only [State.goto_clcode, clWaits, hheld]

/-- CODELENS with all its lengths read (42_blocks.md R258). -/
theorem buildTables_ok (h : DecodeOk (s.goto .codelens)) (hcnt : ¬s.ncnt < s.nlen + s.ndist) :
    DecodeOk (buildTables (s.goto .codelens)) := by
  have hb : s.src.bits ≤ 7 ∨ s.ncnt < s.nlen + s.ndist ∧ clWaits s.clcode s.src := h.bits
  have hb : s.src.bits ≤ 7 := hb.resolve_right fun hwait => hcnt hwait.1
  unfold buildTables
  split
  · exact .of_error (.inl rfl) h.lens
  split
  · exact .of_error (.inl rfl) h.lens
  next l hl =>
  dsimp only
  split
  · exact .of_error (.inl rfl) h.lens
  next d hd =>
    exact (enterLen_settled (buildCode_covers hl) (buildCode_covers hd) hb h.lens).ok

end

/-! ### The symbol elements -/

theorem exec_lengthInstr (k : Fin 29) (cw : Codeword) (x : Nat) (s : State) :
    exec (lengthInstr k cw x) s = .next (lengthElement k (x % 2 ^ lengthExtra k) s) := by
  fin_cases k
  all_goals
    refine congrArg (fun y => Host.Outcome.next (lengthElement _ y s)) ?_
    simp [lengthExtra, lengthExtras, Nat.mod_one]

theorem exec_distanceInstr (k : Fin 30) (cw : Codeword) (x : Nat) (s : State) :
    exec (distanceInstr k cw x) s = .next (distanceElement k (x % 2 ^ distanceExtra k) s) := by
  fin_cases k
  all_goals
    refine congrArg (fun y => Host.Outcome.next (distanceElement _ y s)) ?_
    simp [distanceExtra, distanceExtras, Nat.mod_one]

/-- Every length symbol stands for lengths from 3 to 258 (30_encoding.md R121). -/
theorem lengthBase_bounds (k : Fin 29) : 3 ≤ lengthBase k ∧ lengthBase k + 2 ^ lengthExtra k ≤ 259 := by
  revert k
  decide

/-- Every distance symbol stands for distances from 1 to DMAX (30_encoding.md R123). -/
theorem distanceBase_bounds (k : Fin 30) :
    1 ≤ distanceBase k ∧ distanceBase k + 2 ^ distanceExtra k ≤ Config.dMax + 1 := by
  revert k
  decide

section

variable {s : State}

/-- The codes of a block whose symbols are read cover every pattern (43_huffman.md R315). -/
def blockCodesCover (s : State) : Prop := s.lcode.covers ∧ s.dcode.covers

/-- LIT (44_symbols.md R356). -/
theorem litRule_settled (h : DecodeOk (s.goto .lit)) : Settled (litRule (s.goto .lit)) := by
  have hb : s.src.bits ≤ 7 := h.bits
  obtain ⟨-, heq⟩ | ⟨-, heq⟩ := litRule_cases (s.goto .lit)
  · rw [heq]
    exact Settled.leave ⟨h, fun _ => hb⟩ nofun .ok
  · rw [heq]
    exact ⟨⟨.inl hb, h.codes, trivial, h.lens⟩, fun _ => hb⟩

/-- LITERAL (44_symbols.md R351): the byte is parked. -/
theorem execLiteral_settled {cw : Codeword} {v : Byte} (hc : blockCodesCover s) (hb : s.src.bits ≤ 7)
    (hlens : s.lens.length = 320) : ∃ t, execLiteral cw v s = .next t ∧ Settled t :=
  ⟨_, rfl, litRule_settled (s := { s with length := v.toNat }) ⟨hb, hc, v.isLt, hlens⟩⟩

/-- MATCH (44_symbols.md R355): a match that goes on has bytes left to copy. -/
theorem matchRule_settled (h : DecodeOk (s.goto .matched)) : Settled (matchRule (s.goto .matched)) := by
  have hb : s.src.bits ≤ 7 := h.bits
  have hc : blockCodesCover s := h.codes
  obtain ⟨-, hlength, hoffset⟩ : 1 ≤ s.length ∧ s.length ≤ 258 ∧ 1 ≤ s.offset ∧ s.offset ≤ Config.dMax := h.scratch
  obtain ⟨-, heq⟩ | ⟨-, -, heq⟩ | ⟨-, -, heq⟩ := matchRule_cases (s.goto .matched)
  · rw [heq]
    exact Settled.leave ⟨h, fun _ => hb⟩ nofun .ok
  · rw [heq]
    exact .raise h.lens
  · rw [heq]
    have hbits : (copyBack s.offset (min s.length s.left) (s.goto .matched)).src.bits ≤ 7 := by simpa using hb
    by_cases hl : s.length - min s.length s.left = 0
    · have hok : DecodeOk ({ s with length := 0 }.goto .len) := ⟨.inl hb, hc, trivial, h.lens⟩
      exact ⟨hok.of_same (by simp [State.decoding, hl]), fun _ => hbits⟩
    · have hok : DecodeOk ({ s with length := s.length - min s.length s.left }.goto .matched) :=
        ⟨hb, hc, ⟨Nat.pos_of_ne_zero hl, (Nat.sub_le _ _).trans hlength, hoffset⟩, h.lens⟩
      exact ⟨hok.of_same (by simp [State.decoding, hl]), fun _ => hbits⟩

/-- LENEXT once the extra bits are held (44_symbols.md R352). -/
theorem finishLength_settled {x : Nat} (hc : blockCodesCover s) (hb : s.src.bits ≤ s.extra + 7)
    (hlength : 3 ≤ s.length ∧ s.length + 2 ^ s.extra ≤ 259) (hx : x < 2 ^ s.extra) (hlens : s.lens.length = 320) :
    Settled (finishLength x s) := by
  have hdrop : s.src.bits - s.extra ≤ 7 := by omega
  have hsum : 3 ≤ s.length + x ∧ s.length + x ≤ 258 := by omega
  exact ⟨⟨.inl hdrop, hc, hsum, hlens⟩, fun _ => hdrop⟩

/-- DISTEXT once the extra bits are held, and the match (44_symbols.md R354, R355). -/
theorem finishDistance_settled {x : Nat} (hc : blockCodesCover s) (hb : s.src.bits ≤ s.extra + 7)
    (hlength : 3 ≤ s.length ∧ s.length ≤ 258) (hoffset : 1 ≤ s.offset) (hlens : s.lens.length = 320) :
    Settled (finishDistance x s) := by
  have hdrop : s.src.bits - s.extra ≤ 7 := by omega
  unfold finishDistance
  dsimp only
  split
  · exact .raise hlens
  next hmax =>
    have hsum : 1 ≤ s.length ∧ s.length ≤ 258 ∧ 1 ≤ s.offset + x ∧ s.offset + x ≤ Config.dMax := by
      simp only [State.dropBits_offset] at hmax
      omega
    exact matchRule_settled ⟨hdrop, hc, hsum, hlens⟩

/-- Behind a codeword that was not held at the element's start less than a byte is held (40_bitstream.md R168). -/
theorem bits_drop_found {ε : Type} {c : Code ε} {q q' : BitStream} {cw : Codeword} {e : ε}
    (hq : q.bits ≤ 7 ∨ c.held q = none) (hheld : c.held q' = some (cw, e))
    (hq' : q' = q ∨ c.held q = none ∧ q'.bits < cw.len + 8) : (q'.drop cw.len).bits ≤ 7 := by
  rw [BitStream.drop_bits]
  obtain rfl | ⟨-, hlt⟩ := hq'
  · have := hq.resolve_right (by simp [hheld])
    omega
  · omega

theorem leads_litLen (h : DecodeOk (s.goto .len)) : Leads (s.goto .len) (decode (.litLen s.lcode) s.src) := by
  have hb : s.src.bits ≤ 7 ∨ s.lcode.held s.src = none := h.bits
  have hc : blockCodesCover s := h.codes
  simp only [decode]
  obtain ⟨q, cw, e, hd, hheld, hfound⟩ | ⟨q, hd, hheld⟩ := decodePeek_of_covers hc.1 s.src
  · have hdrop : (q.drop cw.len).bits ≤ 7 := bits_drop_found hb hheld hfound
    rw [hd]
    cases e with
    | lit v => exact execLiteral_settled (cw := cw) hc hdrop h.lens
    | eob => exact ⟨_, rfl, ⟨hdrop, trivial, trivial, h.lens⟩, fun _ => hdrop⟩
    | invalid => exact ⟨_, rfl, .raise h.lens⟩
    | len k =>
      have hextra := lengthExtra_le k
      refine decodeExtra_leads (by omega) (fun q' hmax => ⟨_, exec_lengthInstr _ _ _ _, ?_⟩) fun q' hlt => ?_
      · exact finishLength_settled hc (by simp only [startLength]; omega) (lengthBase_bounds k)
          (Nat.mod_lt _ (Nat.two_pow_pos _)) h.lens
      · exact DecodeOk.leave (s := startLength k { s.goto .len with src := q' })
          ⟨show q'.bits ≤ 7 by omega, hc, ⟨hextra, lengthBase_bounds k⟩, h.lens⟩ .ok
  · rw [hd]
    exact DecodeOk.leave (s := { s.goto .len with src := q }) ⟨.inr hheld, hc, trivial, h.lens⟩ .ok

theorem leads_distance (h : DecodeOk (s.goto .dist)) :
    Leads (s.goto .dist) (decode (.distance s.dcode) s.src) := by
  have hb : s.src.bits ≤ 7 ∨ s.dcode.held s.src = none := h.bits
  have hc : blockCodesCover s := h.codes
  have hlength : 3 ≤ s.length ∧ s.length ≤ 258 := h.scratch
  simp only [decode]
  obtain ⟨q, cw, e, hd, hheld, hfound⟩ | ⟨q, hd, hheld⟩ := decodePeek_of_covers hc.2 s.src
  · have hdrop : (q.drop cw.len).bits ≤ 7 := bits_drop_found hb hheld hfound
    rw [hd]
    cases e with
    | invalid => exact ⟨_, rfl, .raise h.lens⟩
    | dist k =>
      have hextra := distanceExtra_le k
      have hbase := distanceBase_bounds k
      refine decodeExtra_leads (by omega) (fun q' hmax => ⟨_, exec_distanceInstr _ _ _ _, ?_⟩) fun q' hlt => ?_
      · exact finishDistance_settled hc (by simp only [startDistance]; omega) hlength hbase.1 h.lens
      · exact DecodeOk.leave (s := startDistance k { s.goto .dist with src := q' })
          ⟨.inr hlt, hc, ⟨hlength.1, hlength.2, hextra, hbase⟩, h.lens⟩ .ok
  · rw [hd]
    exact DecodeOk.leave (s := { s.goto .dist with src := q }) ⟨.inr hheld, hc, hlength, h.lens⟩ .ok

/-- LENEXT resumed (44_symbols.md R352). -/
theorem resumeLength_ok (h : DecodeOk (s.goto .lenext)) :
    ∃ t, resumeLength (s.goto .lenext) = .next t ∧ DecodeOk t := by
  have hb : s.src.bits ≤ 7 := h.bits
  obtain ⟨hextra, hlength⟩ : s.extra ≤ 5 ∧ 3 ≤ s.length ∧ s.length + 2 ^ s.extra ≤ 259 := h.scratch
  unfold resumeLength
  simp only [State.goto_src, State.goto_extra]
  obtain ⟨k, q, hq, hp, -, hlt⟩ | ⟨q, hq, -, hlt⟩ | ⟨-, k, -, hfull, hlt⟩ := s.src.need_cases s.extra
  · have hbits := hp.bits
    rw [hq]
    exact ⟨_, rfl, (finishLength_settled (s := { s.goto .lenext with src := q }) h.codes
      (show q.bits ≤ s.extra + 7 by omega) hlength (Nat.mod_lt _ (Nat.two_pow_pos _)) h.lens).ok⟩
  · rw [hq]
    exact ⟨_, rfl, DecodeOk.leave (s := { s.goto .lenext with src := q })
      ⟨show q.bits ≤ 7 by omega, h.codes, h.scratch, h.lens⟩ .ok⟩
  · omega

/-- DISTEXT resumed (44_symbols.md R354). -/
theorem resumeDistance_ok (h : DecodeOk (s.goto .distext)) :
    ∃ t, resumeDistance (s.goto .distext) = .next t ∧ DecodeOk t := by
  have hb : s.src.bits ≤ 7 ∨ s.src.bits < s.extra := h.bits
  obtain ⟨hlength, hlength', hextra, hoffset, -⟩ : 3 ≤ s.length ∧ s.length ≤ 258 ∧ s.extra ≤ 13 ∧ 1 ≤ s.offset ∧
    s.offset + 2 ^ s.extra ≤ Config.dMax + 1 := h.scratch
  unfold resumeDistance
  simp only [State.goto_src, State.goto_extra]
  obtain ⟨k, q, hq, hp, -, hlt⟩ | ⟨q, hq, -, hlt⟩ | ⟨-, k, -, hfull, hlt⟩ := s.src.need_cases s.extra
  · have hbits := hp.bits
    rw [hq]
    exact ⟨_, rfl, (finishDistance_settled (s := { s.goto .distext with src := q }) h.codes
      (show q.bits ≤ s.extra + 7 by omega) ⟨hlength, hlength'⟩ hoffset h.lens).ok⟩
  · rw [hq]
    exact ⟨_, rfl, DecodeOk.leave (s := { s.goto .distext with src := q })
      ⟨.inr hlt, h.codes, h.scratch, h.lens⟩ .ok⟩
  · omega

end

/-! ### Every mode -/

/-- Whatever element the mode reads leads on. -/
theorem leads_of_read {s : State} {ctx : Context} (h : DecodeOk s) (ha : action s = .read ctx) :
    Leads s (decode ctx s.src) := by
  have h' : DecodeOk (s.goto s.mode) := h
  change Leads (s.goto s.mode) _
  unfold action at ha
  cases hm : s.mode <;> rw [hm] at h' <;> simp only [hm] at ha
  case flags => cases ha; exact leads_flags h'
  case time => cases ha; exact leads_time h'
  case os => cases ha; exact leads_os h'
  case dictid => cases ha; exact leads_dictid h'
  case stored => cases ha; exact leads_storedLen h'
  case table => cases ha; exact leads_dynCounts h'
  case len => cases ha; exact leads_litLen h'
  case dist => cases ha; exact leads_distance h'
  case head =>
    split at ha <;> cases ha
    next hw => exact leads_head h' hw
  case exlen =>
    split at ha <;> cases ha
    next hf => exact leads_xlen h' hf
  case extra =>
    split at ha <;> cases ha
    next hf => exact leads_extra h' hf.1 _
  case name =>
    split at ha <;> cases ha
    exact leads_name h' _
  case comment =>
    split at ha <;> cases ha
    exact leads_comment h' _
  case hcrc =>
    split at ha <;> cases ha
    next hf => exact leads_hcrc h' hf
  case typedo =>
    split at ha <;> cases ha
    exact leads_blockHeader h'
  case copy =>
    split at ha
    · cases ha
    split at ha <;> cases ha
    exact leads_storedData h' _
  case lenlens =>
    split at ha <;> cases ha
    next hn => exact leads_clLen h' hn
  case codelens =>
    split at ha <;> cases ha
    next hcnt => exact leads_codeLengths h' hcnt
  case check =>
    split at ha
    · cases ha
    next hw =>
    split at ha <;> cases ha
    · exact leads_check h' hw fun _ _ => ⟨_, rfl⟩
    · exact leads_check h' hw fun _ _ => ⟨_, rfl⟩
  case length =>
    split at ha <;> cases ha
    next hg => exact leads_isize h' hg.1 hg.2
  all_goals cases ha

/-- A mode that moves by itself goes on to a state in good order. -/
theorem ok_of_move {s : State} {r : Result} (h : DecodeOk s) (ha : action s = .move r) :
    ∃ t, r = .next t ∧ DecodeOk t := by
  have h' : DecodeOk (s.goto s.mode) := h
  have hs : s = s.goto s.mode := rfl
  unfold action at ha
  cases hm : s.mode <;> rw [hm] at h' hs <;> simp only [hm] at ha
  case flags | time | os | dictid | stored | table | len | dist => cases ha
  case head =>
    split at ha <;> cases ha
    next hw =>
      have hb : s.src.bits = 0 ∨ s.src.bits = 8 ∧ s.wrap ≠ .none := h'.bits
      exact ⟨_, rfl, (hb.resolve_right fun h8 => h8.2 hw).trans_le (Nat.zero_le 7), trivial, trivial, h.lens⟩
  case exlen =>
    split at ha <;> cases ha
    next hf =>
      have hb : s.src.bits = 0 ∨ s.src.bits = 8 ∧ fextra s.gflg = true := h'.bits
      exact ⟨_, rfl, hb.resolve_right fun h8 => hf h8.2, trivial, fun hx => absurd hx hf, h.lens⟩
  case extra =>
    split at ha <;> cases ha
    exact ⟨_, rfl, h'.bits, trivial, trivial, h.lens⟩
  case name =>
    split at ha <;> cases ha
    exact ⟨_, rfl, h'.bits, trivial, trivial, h.lens⟩
  case comment =>
    split at ha <;> cases ha
    exact ⟨_, rfl, .inl h'.bits, trivial, trivial, h.lens⟩
  case hcrc =>
    split at ha <;> cases ha
    next hf =>
      have hb : s.src.bits = 0 ∨ s.src.bits = 8 ∧ fhcrc s.gflg = true := h'.bits
      exact ⟨_, rfl, (hb.resolve_right fun h8 => hf h8.2).trans_le (Nat.zero_le 7), trivial, trivial, h.lens⟩
  case typedo =>
    split at ha <;> cases ha
    have hb : s.src.bits ≤ 7 := h'.bits
    exact ⟨_, rfl, .inl (show s.src.bits - s.src.bits % 8 = 0 by omega), trivial, trivial, h.lens⟩
  case dict =>
    cases ha
    refine ⟨_, rfl, ?_⟩
    unfold dictRule
    split
    · exact ⟨h'.bits.trans_le (Nat.zero_le 7), trivial, trivial, h.lens⟩
    · exact h.leave _
  case type =>
    cases ha
    refine ⟨_, rfl, ?_⟩
    unfold typeRule
    split
    · exact h.leave _
    · exact ⟨h'.bits, trivial, trivial, h.lens⟩
  case copy_ =>
    cases ha
    exact ⟨_, rfl, h'.bits, trivial, h'.scratch, h.lens⟩
  case copy =>
    split at ha
    · cases ha
      exact ⟨_, rfl, h'.bits.trans_le (Nat.zero_le 7), trivial, trivial, h.lens⟩
    split at ha <;> cases ha
    exact ⟨_, rfl, h.leave _⟩
  case lenlens =>
    split at ha <;> cases ha
    rw [hs]
    exact ⟨_, rfl, buildClTable_ok h'⟩
  case codelens =>
    split at ha <;> cases ha
    next hcnt =>
      rw [hs]
      exact ⟨_, rfl, buildTables_ok h' hcnt⟩
  case len_ =>
    cases ha
    exact ⟨_, rfl, .inl h'.bits, h'.codes, trivial, h.lens⟩
  case lenext =>
    cases ha
    rw [hs]
    exact resumeLength_ok h'
  case distext =>
    cases ha
    rw [hs]
    exact resumeDistance_ok h'
  case matched =>
    cases ha
    rw [hs]
    exact ⟨_, rfl, (matchRule_settled h').ok⟩
  case lit =>
    cases ha
    rw [hs]
    exact ⟨_, rfl, (litRule_settled h').ok⟩
  case check =>
    split at ha
    · cases ha
      next hw =>
        have hb : s.src.bits = 0 ∨ s.src.bits % 8 = 0 ∧ s.src.bits ≤ 24 ∧ s.wrap ≠ .none := h'.bits
        exact ⟨_, rfl, .inl (hb.resolve_right fun hx => hx.2.2 hw), trivial, trivial, h.lens⟩
    split at ha <;> cases ha
  case length =>
    split at ha <;> cases ha
    next hg =>
      have hb : s.src.bits = 0 ∨ s.src.bits % 8 = 0 ∧ s.src.bits ≤ 24 ∧ s.wrap ≠ .none ∧ s.fmt = .gzip := h'.bits
      exact ⟨_, rfl, hb.resolve_right fun hx => hg hx.2.2, trivial, trivial, h.lens⟩
  case done | bad | mem =>
    cases ha
    exact ⟨_, rfl, h.leave _⟩

/-! ### The host commands -/

/-- The queue is nothing to the decoder. -/
theorem DecodeOk.withCommands {s : State} (h : DecodeOk s) (rest : List Command) :
    DecodeOk { s with commands := rest } := ⟨h.bits, h.codes, h.scratch, h.lens⟩

/-- The prologue keeps what decoding relies on: TYPE and TYPEDO allow the same (46_host.md R447). -/
theorem DecodeOk.startCall {s : State} (h : DecodeOk s) (input : List Byte) (availOut : Nat) (flush : Flush) :
    DecodeOk (startCall input availOut flush s) := by
  by_cases hm : s.mode = .type
  · have hb : s.src.bits ≤ 7 := by simpa [bitsBound, hm] using h.bits
    have hmode : (Machine.startCall input availOut flush s).mode = .typedo := by simp [Machine.startCall, hm]
    exact ⟨by rw [bitsBound, hmode]; exact hb, by simp [codesBound, hmode], by simp [scratchBound, hmode], h.lens⟩
  · exact h.of_same (by simp [State.decoding, Machine.startCall, hm])

theorem DecodeOk.command {s t : State} (h : DecodeOk s) (hs : CommandStep s t) : DecodeOk t := by
  cases hs with
  | refused _ ht | header _ ht | teardown ht => exact ht ▸ ⟨h.bits, h.codes, h.scratch, h.lens⟩
  | init _ _ _ _ ht | resetKeep ht | resetFull ht => exact ht ▸ ⟨.inl rfl, trivial, trivial, h.lens⟩
  | inflate input availOut flush _ ht => exact ht ▸ h.startCall input availOut flush
  | dictionary dict st havedict _ ht =>
    subst ht
    obtain ⟨-, hm, -⟩ | ⟨-, hm, -⟩ := windowUpdate_cases dict s
    · exact .of_error (.inr hm) (by simpa [answer] using h.lens)
    · exact h.of_same (by simp [State.decoding, answer, hm])

/-! ### The steps -/

/-- The element a step runs settles. -/
theorem settled_of_element {s t : State} {ctx : Context} {i : Instr} {q : BitStream} (h : DecodeOk s)
    (ha : action s = .read ctx) (hd : decode ctx s.src = .element i q) (ht : exec i { s with src := q } = .next t) :
    Settled t := by
  have hleads := leads_of_read h ha
  rw [hd] at hleads
  obtain ⟨u, hu, hsettled⟩ := hleads
  cases hu.symm.trans ht
  exact hsettled

/-- Settles O51: a command keeps the bounds by `DecodeOk.command`, an element and the end of the input in one by
`leads_of_read`, a move by `ok_of_move`. -/
theorem decodeBoundsKept : Obligations.DecodeBoundsKept := by
  intro s t h hs
  cases step_cases hs with
  | idle _ _ ht => exact ht ▸ h
  | command c rest _ _ _ ht => exact (h.withCommands rest).command (exec_command_step ht)
  | element ctx i q _ ha hd ht => exact (settled_of_element h ha hd ht).ok
  | starved ctx p q _ ha hd ht =>
    have hleads := leads_of_read h ha
    rw [hd] at hleads
    exact ht ▸ hleads
  | move _ ha =>
    obtain ⟨u, hu, hok⟩ := ok_of_move h ha
    cases hu
    exact hok

theorem stepCall_next {s : State} (h : DecodeOk s) : ∃ t, stepCall s = .next t := by
  unfold stepCall
  split
  · next r ha =>
    obtain ⟨t, ht, -⟩ := ok_of_move h ha
    exact ⟨t, ht⟩
  · next ctx ha =>
    have hleads := leads_of_read h ha
    split
    · next hd =>
      rw [hd] at hleads
      obtain ⟨t, ht, -⟩ := hleads
      exact ⟨t, ht⟩
    · exact ⟨_, rfl⟩
    · next hd =>
      rw [hd] at hleads
      exact hleads.elim

/-- A host command always has a meaning (46_host.md R440). -/
theorem exec_command_next (c : Command) (s : State) : ∃ t, exec (decodeCommand c) s = .next t := by
  cases c with
  | init | reset | inflate | setDictionary | getHeader | teardown => exact ⟨_, rfl⟩

/-- Settles O52: in a call nothing overflows, and between calls only an ill-formed command is refused. -/
theorem safeStepsNeverFault : Obligations.SafeStepsNeverFault := by
  intro s h
  cases hr : s.running with
  | true =>
    obtain ⟨t, ht⟩ := stepCall_next h.decode
    exact .inl ⟨t, by simpa [step, hr] using ht⟩
  | false =>
    have hstep : step s = stepHost s := by simp [step, hr]
    rw [hstep, stepHost]
    split
    · exact .inl ⟨s, rfl⟩
    next c rest hc =>
    cases hw : (decodeCommand c).wellFormed with
    | true =>
      obtain ⟨t, ht⟩ := exec_command_next c { s with commands := rest }
      exact .inl ⟨t, by simpa using ht⟩
    | false => exact .inr ⟨by simp, rfl, c, rest, hc, hw⟩

/-- Settles O53: the element settles. -/
theorem elementBoundaryHoldsAtMostSevenBits : Obligations.ElementBoundaryHoldsAtMostSevenBits :=
  fun _ _ _ _ _ h _ ha hd ht => (settled_of_element h.decode ha hd ht).boundary

end Sys2Proof.Machine
end

section
/-! What the wrapper elements write (41_wrapper.md R190 to R206): their results case by case, runs of bytes taken in pieces, and the modes that read no element (46_host.md R448). -/

namespace Sys2Proof.Machine

/-! ### Runs of bytes -/

theorem crc32Update_append (c : U32) (first second : List Byte) :
    crc32Update c (first ++ second) = crc32Update (crc32Update c first) second := by
  simp [crc32Update]

/-- Two runs captured and taken into the header CRC one after the other are one run (46_host.md R471). -/
theorem State.captureRun_append {f g k : HeaderRecord → HeaderRecord} (h : ∀ r, g (f r) = k r)
    (first second : List Byte) (s : State) :
    (((s.mapHead f).crcHeader first).mapHead g).crcHeader second = (s.mapHead k).crcHeader (first ++ second) := by
  obtain rfl : g ∘ f = k := funext h
  simp [State.mapHead, State.crcHeader, crc32Update_append]

/-- Two runs fill a captured field as one run does: the capacity is used up in order (41_wrapper.md R198). -/
theorem captureUpTo_append (cap : Nat) (old : Option (List Byte)) (first second : List Byte) :
    captureUpTo cap (captureUpTo cap old first) second = captureUpTo cap old (first ++ second) := by
  have hroom : cap - ((old.getD []).length + min (cap - (old.getD []).length) first.length) =
      cap - (old.getD []).length - first.length := by omega
  simp [captureUpTo, List.take_append, hroom]

/-- A run without its NUL is all characters. -/
theorem strzChars_append {first : List Byte} (h : (0 : Byte) ∉ first) (second : List Byte) :
    strzChars (first ++ second) = first ++ strzChars second :=
  List.takeWhile_append_of_pos fun b hb => by simpa using ne_of_mem_of_not_mem hb h

theorem strzChars_eq_self {first : List Byte} (h : (0 : Byte) ∉ first) : strzChars first = first := by
  simpa [strzChars] using strzChars_append h []

theorem strzEnded_iff (data : List Byte) : strzEnded data = true ↔ (0 : Byte) ∈ data := by
  simp [strzEnded]

theorem strzEnded_append {first : List Byte} (h : (0 : Byte) ∉ first) (second : List Byte) :
    strzEnded (first ++ second) = strzEnded second := by
  rw [Bool.eq_iff_iff, strzEnded_iff, strzEnded_iff, List.mem_append]
  exact or_iff_right h

/-- GZIP_NAME and GZIP_COMMENT after a run without the NUL: the run is captured and the mode stays. -/
theorem exec_string_open {first : List Byte} (h : (0 : Byte) ∉ first) (s : State) :
    exec (.gzipName first) s =
      .next ((s.mapHead fun r => { r with name := captureUpTo r.nameMax r.name first }).crcHeader first) ∧
    exec (.gzipComment first) s =
      .next ((s.mapHead fun r => { r with comment := captureUpTo r.commentMax r.comment first }).crcHeader first) := by
  have hopen : ¬strzEnded first = true := (strzEnded_iff first).not.2 h
  simp [exec, execGzipName, execGzipComment, strzChars_eq_self h, hopen]

theorem memWriteAll_append (first second : List Byte) (s : State) :
    memWriteAll (first ++ second) s = memWriteAll second (memWriteAll first s) :=
  List.foldl_append

/-- Output does not read `length`. -/
theorem memWriteAll_withLength (data : List Byte) (n : Nat) (s : State) :
    memWriteAll data { s with length := n } = { memWriteAll data s with length := n } := by
  induction data generalizing s with
  | nil => rfl
  | cons b bs ih => exact ih (memWrite b s)

theorem execGzipExtra_append {first : List Byte} {s t : State} (hlen : first.length < s.length)
    (ht : exec (.gzipExtra first) s = .next t) (second : List Byte) :
    exec (.gzipExtra second) t = exec (.gzipExtra (first ++ second)) s := by
  have howed : s.length - first.length ≠ 0 := by omega
  cases ht
  simp only [exec, execGzipExtra, State.mapHead, State.crcHeader, Option.map_map, if_neg howed,
    List.length_append, ← Nat.sub_sub, crc32Update_append, ← captureUpTo_append]
  rfl

theorem execGzipName_append {first : List Byte} {s t : State} (h : (0 : Byte) ∉ first)
    (ht : exec (.gzipName first) s = .next t) (second : List Byte) :
    exec (.gzipName second) t = exec (.gzipName (first ++ second)) s := by
  cases (exec_string_open h s).1.symm.trans ht
  simp only [exec, execGzipName, strzChars_append h, strzEnded_append h]
  rw [State.captureRun_append fun r => by rw [captureUpTo_append]]

theorem execGzipComment_append {first : List Byte} {s t : State} (h : (0 : Byte) ∉ first)
    (ht : exec (.gzipComment first) s = .next t) (second : List Byte) :
    exec (.gzipComment second) t = exec (.gzipComment (first ++ second)) s := by
  cases (exec_string_open h s).2.symm.trans ht
  simp only [exec, execGzipComment, strzChars_append h, strzEnded_append h]
  rw [State.captureRun_append fun r => by rw [captureUpTo_append]]

theorem execStoredData_append {first : List Byte} {s t : State} (ht : exec (.storedData first) s = .next t)
    (second : List Byte) : exec (.storedData second) t = exec (.storedData (first ++ second)) s := by
  cases ht
  simp only [exec, execStoredData, memWriteAll_withLength, memWriteAll_append, List.length_append, Nat.sub_sub]

/-- Settles O19: captures, checksums and outputs of two runs compose. -/
theorem byteRunsMayBeSplit : Obligations.ByteRunsMayBeSplit := fun _ second _ _ =>
  ⟨fun hlen ht => execGzipExtra_append hlen ht second, fun h ht => execGzipName_append h ht second,
    fun h ht => execGzipComment_append h ht second, fun ht => execStoredData_append ht second⟩

/-- A move made on a condition changes the mode only. -/
theorem goto_ite (c : Prop) [Decidable c] (m : Mode) (s : State) :
    (if c then s.goto m else s) = { s with mode := if c then m else s.mode } := by
  split <;> rfl

/-- Settles O18: a run is captured and checked as the meanings say, and the mode moves at the field's end. -/
theorem gzipRunResults : Obligations.GzipRunResults := by
  intro data s
  refine ⟨?_, ?_, ?_⟩
  · simp only [exec, execGzipExtra, Nat.sub_eq_zero_iff_le]
    rfl
  · simp only [exec, execGzipName, goto_ite, strzEnded_iff]
    rfl
  · simp only [exec, execGzipComment, goto_ite, strzEnded_iff]
    rfl

/-! ### Header fields -/

theorem zlibCheckOk_eq_false_iff (cmf flg : Byte) :
    zlibCheckOk cmf flg = false ↔ (cmf.toNat * 256 + flg.toNat) % 31 ≠ 0 := by
  simp [zlibCheckOk]

/-- ZLIB_HEADER's `wbits` before its last check: an unknown size takes the stream's (41_wrapper.md R193). -/
theorem mapHead_knownWbits (w : Nat) (f : HeaderRecord → HeaderRecord) (s : State) :
    (if s.wbits = 0 then { s.mapHead f with wbits := w } else s.mapHead f) =
      { s.mapHead f with wbits := if s.wbits = 0 then w else s.wbits } := by
  split <;> rfl

/-- Settles O15: each clause takes one branch of the checks. -/
theorem zlibHeaderResult : Obligations.ZlibHeaderResult := by
  intro cmf flg s
  simp only [exec, execZlibHeader, mapHead_knownWbits, zlibCheckOk_eq_false_iff]
  refine ⟨fun he1 => congrArg _ (if_pos he1), fun hwrap hcheck => ?_⟩
  have hne1 : ¬(s.wrap = .gzip ∨ (cmf.toNat * 256 + flg.toNat) % 31 ≠ 0) := by simp [hwrap, hcheck]
  refine ⟨fun hcm => ?_, fun hcm hw => ?_, fun hcm hw hwb => ?_, fun hcm hw hwb => ?_⟩ <;>
    refine congrArg _ ((if_neg hne1).trans ?_)
  · exact if_pos hcm
  · exact (if_neg (not_not.2 hcm)).trans (if_pos hw)
  · exact (if_neg (not_not.2 hcm)).trans ((if_neg (Nat.not_lt.2 hw)).trans (if_pos hwb))
  · exact (if_neg (not_not.2 hcm)).trans ((if_neg (Nat.not_lt.2 hw)).trans (if_neg (Nat.not_lt.2 hwb)))

/-- Settles O16: none of the four checks anything, so each meaning is the update the clause writes out. -/
theorem gzipFixedFieldResults : Obligations.GzipFixedFieldResults := fun _ _ _ _ _ => ⟨rfl, rfl, rfl, rfl⟩

theorem freserved_iff (flg : Byte) : freserved flg = true ↔ flg.toNat / 32 ≠ 0 := by
  simp [freserved, ← BitVec.toNat_inj, Nat.shiftRight_eq_div_pow]

/-- Settles O17: the method is checked before the reserved flags. -/
theorem gzipFlagsResult : Obligations.GzipFlagsResult := by
  intro cm flg s
  refine ⟨fun hcm => ?_, fun hcm hres => ?_, fun hcm hres => ?_⟩
  · exact congrArg _ (if_pos hcm)
  · exact congrArg _ ((if_neg (not_not.2 hcm)).trans (if_pos ((freserved_iff flg).2 hres)))
  · exact congrArg _ ((if_neg (not_not.2 hcm)).trans (if_neg fun h => (freserved_iff flg).1 h hres))

theorem outputCount_toNat (s : State) :
    (outputCount s).toNat = (s.total.toNat + s.outBuf.length) % 2 ^ 32 := by
  simp [outputCount]

theorem eq_outputCount_iff (v : U32) (s : State) :
    v = outputCount s ↔ v.toNat = (s.total.toNat + s.outBuf.length) % 2 ^ 32 := by
  rw [← outputCount_toNat, BitVec.toNat_inj]

/-- Settles O20: each check is one branch, with ISIZE's count read as a number mod 2^32. -/
theorem dictidHcrcAndTrailerResults : Obligations.DictidHcrcAndTrailerResults := by
  intro v crc s
  simp only [ne_eq, ← eq_outputCount_iff]
  refine ⟨rfl, fun h => ?_, fun h => ?_, fun h => ⟨?_, ?_⟩, fun h => ⟨?_, ?_⟩, fun h => ?_, fun h => ?_⟩
  · exact congrArg _ (if_pos h)
  · exact congrArg _ (if_neg (not_not.2 h))
  · exact congrArg _ (if_pos h)
  · exact congrArg _ (if_pos h)
  · exact congrArg _ (if_neg (not_not.2 h))
  · exact congrArg _ (if_neg (not_not.2 h))
  · exact congrArg _ (if_pos h)
  · exact congrArg _ (if_neg (not_not.2 h))

/-! ### Modes that read no element -/

section

variable {s : State} {m : Mode} (hr : s.running = true)
include hr

/-- A rule that `action` answers for the mode `m` is the step of every state in mode `m`. -/
theorem step_of_rule (f : State → Result) (hm : s.mode = m) (ha : action (s.goto m) = .move (f (s.goto m))) :
    step s = f s := by
  subst hm
  have ha' : action s = .move (f s) := ha
  simp [step, hr, stepCall, ha']

theorem step_of_move {r : Result} (hm : s.mode = m) (ha : action (s.goto m) = .move r) : step s = r :=
  step_of_rule hr (fun _ => r) hm ha

theorem step_of_leave {r : Status} (hm : s.mode = m) (ha : action (s.goto m) = .move (.next (leave r (s.goto m)))) :
    step s = .next (leave r s) :=
  step_of_rule hr (fun s => .next (leave r s)) hm ha

theorem step_hcrc_absent (hm : s.mode = .hcrc) (hf : ¬fhcrc s.gflg = true) : step s = .next (finishGzipHeader s) :=
  step_of_rule hr (fun s => .next (finishGzipHeader s)) hm (if_neg hf)

theorem step_dict (hm : s.mode = .dict) : step s = .next (dictRule s) :=
  step_of_rule hr (fun s => .next (dictRule s)) hm rfl

theorem step_type (hm : s.mode = .type) : step s = .next (typeRule s) :=
  step_of_rule hr (fun s => .next (typeRule s)) hm rfl

theorem step_matched (hm : s.mode = .matched) : step s = .next (matchRule s) :=
  step_of_rule hr (fun s => .next (matchRule s)) hm rfl

theorem step_lit (hm : s.mode = .lit) : step s = .next (litRule s) :=
  step_of_rule hr (fun s => .next (litRule s)) hm rfl

theorem step_lenext (hm : s.mode = .lenext) : step s = resumeLength s := step_of_rule hr _ hm rfl

theorem step_distext (hm : s.mode = .distext) : step s = resumeDistance s := step_of_rule hr _ hm rfl

end

theorem resumeLength_held {s : State} {q : BitStream} (hq : s.src.need s.extra = .held q) :
    resumeLength s = .next (finishLength (q.peekBits s.extra) { s with src := q }) := by
  rw [resumeLength, hq]

theorem resumeDistance_held {s : State} {q : BitStream} (hq : s.src.need s.extra = .held q) :
    resumeDistance s = .next (finishDistance (q.peekBits s.extra) { s with src := q }) := by
  rw [resumeDistance, hq]

/-- The input's end inside the extra bits suspends the call in either mode (40_bitstream.md R167). -/
theorem resume_starved {s : State} {q : BitStream} (hq : s.src.need s.extra = .starved q) :
    resumeLength s = .next (leave .ok { s with src := q }) ∧
    resumeDistance s = .next (leave .ok { s with src := q }) := by
  simp [resumeLength, resumeDistance, hq, suspend]

/-- Settles O44: in each mode `action` answers a move, and its rule takes the branch the clause names. -/
theorem modesThatReadNothingMove : Obligations.ModesThatReadNothingMove := by
  intro s hr
  refine ⟨fun hm hw => ?head, fun hm hf => ?exlen, fun hm hend => ?extra, fun hm hf => ?name, fun hm hf => ?comment,
    fun hm hf => ?hcrc, fun hm hd => ?dictNeeded, fun hm hd => ?dictKnown, fun hm hf => ?typeStop,
    fun hm hb ht => ?typeGo, fun hm hl => ?typedo, fun hm => ?copy_, fun hm hl => ?copyEnd,
    fun hm hl hleft => ?copyFull, fun hm => ?len_, fun hm hleft => ?litFull, fun hm hleft => ?litWrite,
    fun hm => ?matched, fun q hm hq => ?lenext, fun q hm hq hd => ?distext, fun q hm hq hd => ?distextFar,
    fun q hm hq => ?starved, fun hm hw => ?check, fun hm hg => ?length, fun hm => ?done, fun hm => ?bad,
    fun hm => ?mem⟩
  case head => exact step_of_move hr hm (if_pos hw)
  case exlen => exact step_of_move hr hm (if_neg (ne_true_of_eq_false hf))
  case extra =>
    refine step_of_move hr hm (if_neg fun hmore => ?_)
    obtain ⟨hset, howed⟩ := hmore
    exact hend.elim (fun hclear => ne_true_of_eq_false hclear hset) howed.ne'
  case name => exact step_of_move hr hm (if_neg (ne_true_of_eq_false hf))
  case comment => exact step_of_move hr hm (if_neg (ne_true_of_eq_false hf))
  case hcrc =>
    rw [step_hcrc_absent hr hm (ne_true_of_eq_false hf), finishGzipHeader, fhcrc, hf]
    rfl
  case dictNeeded => rw [step_dict hr hm, dictRule, hd, if_neg Bool.false_ne_true]
  case dictKnown =>
    rw [step_dict hr hm, dictRule, if_pos hd]
    rfl
  case typeStop => rw [step_type hr hm, typeRule, if_pos hf]
  case typeGo =>
    rw [step_type hr hm, typeRule, if_neg (not_or.2 ⟨hb, ht⟩)]
    rfl
  case typedo => exact step_of_move hr hm (if_pos hl)
  case copy_ => exact step_of_move hr hm rfl
  case copyEnd => exact step_of_move hr hm (if_pos hl)
  case copyFull =>
    exact step_of_leave hr hm ((if_neg hl).trans (if_pos hleft))
  case len_ => exact step_of_move hr hm rfl
  case litFull => rw [step_lit hr hm, litRule, if_pos hleft]
  case litWrite =>
    rw [step_lit hr hm, litRule, if_neg hleft.ne']
    rfl
  case matched => exact step_matched hr hm
  case lenext =>
    rw [step_lenext hr hm, resumeLength_held hq]
    rfl
  case distext =>
    rw [step_distext hr hm, resumeDistance_held hq]
    exact congrArg _ (if_neg (Nat.not_lt.2 hd))
  case distextFar =>
    rw [step_distext hr hm, resumeDistance_held hq]
    exact congrArg _ (if_pos hd)
  case starved =>
    obtain hm | hm := hm
    · exact (step_lenext hr hm).trans (resume_starved hq).1
    · exact (step_distext hr hm).trans (resume_starved hq).2
  case check => exact step_of_move hr hm (if_pos hw)
  case length => exact step_of_move hr hm (if_neg fun hboth => hg.elim hboth.1 fun hf => hf hboth.2)
  case done => exact step_of_leave hr hm rfl
  case bad => exact step_of_leave hr hm rfl
  case mem => exact step_of_leave hr hm rfl

end Sys2Proof.Machine
end

section
/-! What the block elements write (42_blocks.md R250 to R260): the headers, the stored bytes, the code lengths and the codes built from them. -/

namespace Sys2Proof.Machine

/-! ### The block headers -/

theorem stopForTrees_of_trees {s : State} (h : s.flush = .trees) : stopForTrees s = leave .ok s := if_pos h

theorem stopForTrees_of_ne_trees {s : State} (h : s.flush ≠ .trees) : stopForTrees s = s := if_neg h

/-- BLOCK_FIXED up to the stop for TREES (42_blocks.md R251, R259). -/
theorem exec_blockFixed (final : Bool) (s : State) :
    exec (.blockFixed final) s = .next (stopForTrees { s with
      last := final, src := s.src.drop 3, lcode := fixedLl, dcode := fixedDist, mode := .len_ }) := by
  rw [exec, execBlockFixed]
  dsimp only [blockHeader, State.dropBits, State.mapSrc, State.goto]

/-- Settles O21: only the fixed block looks at the flush, and TREES leaves with its codes installed. -/
theorem blockHeaderResults : Obligations.BlockHeaderResults := by
  intro final s
  refine ⟨rfl, rfl, rfl, fun h => ?_, fun h => ?_⟩
  · exact (exec_blockFixed final s).trans (congrArg _ (stopForTrees_of_ne_trees h))
  · exact (exec_blockFixed final s).trans (congrArg _ (stopForTrees_of_trees h))

/-! ### Stored blocks -/

/-- Settles O22: each clause takes one branch of the complement check and of the stop for TREES. -/
theorem storedHeaderResult : Obligations.StoredHeaderResult := by
  intro len nlen s
  refine ⟨fun h => ?_, fun h ht => ?_, fun h ht => ?_⟩
  · exact congrArg _ (if_pos h)
  · exact congrArg _ ((if_neg (not_not.2 h)).trans (if_neg ht))
  · exact congrArg _ ((if_neg (not_not.2 h)).trans (if_pos ht))

/-- The two sums of Adler-32 packed into a word (46_host.md R470). -/
def adlerWord (p : Nat × Nat) : U32 := BitVec.ofNat 32 (p.2 * 2 ^ 16 + p.1)

/-- The two sums a word holds. -/
def adlerSums (a : U32) : Nat × Nat := (a.toNat % 2 ^ 16, a.toNat / 2 ^ 16)

theorem adler32Update_eq (a : U32) (bytes : List Byte) :
    adler32Update a bytes = adlerWord (bytes.foldl adlerStep (adlerSums a)) := rfl

theorem adlerSums_adlerWord {p : Nat × Nat} (h₁ : p.1 < 2 ^ 16) (h₂ : p.2 < 2 ^ 16) :
    adlerSums (adlerWord p) = p := by
  have hword : (adlerWord p).toNat = p.2 * 2 ^ 16 + p.1 := Nat.mod_eq_of_lt (by omega)
  rw [adlerSums, hword]
  exact Prod.ext (by dsimp only; omega) (by dsimp only; omega)

theorem adlerWord_adlerSums (a : U32) : adlerWord (adlerSums a) = a := by
  simp [adlerWord, adlerSums, Nat.div_add_mod']

/-- Both sums fit their half of the word, whatever the seed. -/
theorem adlerFold_lt (bytes : List Byte) {p : Nat × Nat} (h₁ : p.1 < 2 ^ 16) (h₂ : p.2 < 2 ^ 16) :
    (bytes.foldl adlerStep p).1 < 2 ^ 16 ∧ (bytes.foldl adlerStep p).2 < 2 ^ 16 := by
  induction bytes generalizing p with
  | nil => exact ⟨h₁, h₂⟩
  | cons b bs ih => exact ih (by simp only [adlerStep]; omega) (by simp only [adlerStep]; omega)

theorem adler32Update_append (a : U32) (first second : List Byte) :
    adler32Update a (first ++ second) = adler32Update (adler32Update a first) second := by
  obtain ⟨h₁, h₂⟩ := adlerFold_lt first (p := adlerSums a) (Nat.mod_lt _ (by decide)) (Nat.div_lt_of_lt_mul a.isLt)
  simp only [adler32Update_eq, List.foldl_append, adlerSums_adlerWord h₁ h₂]

theorem dataUpdate_nil (fmt : Fmt) (c : U32) : dataUpdate fmt c [] = c := by
  unfold dataUpdate
  split
  · simp [crc32Update]
  · exact adlerWord_adlerSums c

theorem dataUpdate_append (fmt : Fmt) (c : U32) (first second : List Byte) :
    dataUpdate fmt c (first ++ second) = dataUpdate fmt (dataUpdate fmt c first) second := by
  unfold dataUpdate
  split
  · exact crc32Update_append c first second
  · exact adler32Update_append c first second

/-- A run's checksum is folded byte by byte as it is written (20_memory.md R83). -/
theorem memWriteAll_check (data : List Byte) (s : State) :
    (memWriteAll data s).check = if s.wrap = .none then s.check else dataUpdate s.fmt s.check data := by
  induction data generalizing s with
  | nil => simp [memWriteAll, dataUpdate_nil]
  | cons b bs ih =>
    rw [memWriteAll_cons, ih, memWrite_wrap, memWrite_fmt, memWrite_check]
    split
    · rfl
    · exact (dataUpdate_append s.fmt s.check [b] bs).symm

/-- All a run of output bytes does to the state (20_memory.md R83, R84). -/
theorem memWriteAll_eq (data : List Byte) (s : State) :
    memWriteAll data s = { s with
      outBuf := s.outBuf ++ data
      left := s.left - data.length
      check := if s.wrap = .none then s.check else dataUpdate s.fmt s.check data } := by
  have hframe : memWriteAll data s = { s with
      outBuf := (memWriteAll data s).outBuf
      left := (memWriteAll data s).left
      check := (memWriteAll data s).check } := by
    induction data generalizing s with
    | nil => rfl
    | cons b bs ih => exact ih (memWrite b s)
  rw [hframe, memWriteAll_outBuf, memWriteAll_left, memWriteAll_check]

/-- Settles O23: the bytes are written as one run, and `length` falls by their number. -/
theorem storedDataResult : Obligations.StoredDataResult := by
  intro data s
  rw [exec, execStoredData, memWriteAll_eq]

/-! ### The dynamic header -/

/-- R255's bounds on the counts, as bounds on the fields. -/
theorem tooManySymbols_iff (hlit hdist : BitVec 5) :
    286 < nlenOf hlit ∨ 30 < ndistOf hdist ↔ 29 < hlit.toNat ∨ 29 < hdist.toNat := by
  simp only [nlenOf, ndistOf]
  omega

/-- Settles O24: the counts take one branch of E8's check, and a code-length length checks nothing. -/
theorem dynamicCountsResult : Obligations.DynamicCountsResult := by
  intro hlit hdist hclen len s
  refine ⟨fun h => ?_, fun hl hd => ?_, rfl⟩
  · exact congrArg _ (if_pos ((tooManySymbols_iff hlit hdist).2 h))
  · have hfew : ¬(29 < hlit.toNat ∨ 29 < hdist.toNat) := by omega
    exact congrArg _ (if_neg ((tooManySymbols_iff hlit hdist).not.2 hfew))

/-! ### The code lengths -/

theorem dropBits_dropBits (m n : Nat) (s : State) : (s.dropBits m).dropBits n = s.dropBits (m + n) := by
  simp [State.dropBits, State.mapSrc, BitStream.drop, BitVec.shiftRight_add, Nat.sub_sub]

/-- `l` with `n` places from `i` on holding `v`. -/
def putRun (i n : Nat) (v : BitVec 4) (l : List (BitVec 4)) : List (BitVec 4) :=
  l.take i ++ List.replicate n v ++ l.drop (i + n)

/-- Writing one place extends by it the run behind it. -/
theorem putRun_set {i n : Nat} {l : List (BitVec 4)} (h : i < l.length) (v : BitVec 4) :
    putRun (i + 1) n v (l.set i v) = putRun i (n + 1) v l := by
  have htake : (l.set i v).take (i + 1) = l.take i ++ [v] := by
    rw [List.take_add_one, List.take_set_of_le (Nat.le_refl i), List.getElem?_set_self h]
    rfl
  have hdrop : (l.set i v).drop (i + 1 + n) = l.drop (i + (n + 1)) := by
    rw [List.drop_set_of_lt (by omega), Nat.add_right_comm, Nat.add_assoc]
  simp [putRun, htake, hdrop, List.replicate_succ]

/-- All a run of code lengths within the list does to the state (42_blocks.md R257). -/
theorem pushLens_putRun (len : BitVec 4) {n : Nat} {s : State} (h : s.ncnt + n ≤ s.lens.length) :
    pushLens len n s = { s with lens := putRun s.ncnt n len s.lens, ncnt := s.ncnt + n } := by
  induction n generalizing s with
  | zero => simp [pushLens, putRun]
  | succ n ih =>
    have hroom : s.ncnt + 1 + n ≤ (s.lens.set s.ncnt len).length := by
      rw [List.length_set]
      omega
    rw [pushLens, ih hroom]
    simp only [State.setLens, putRun_set (show s.ncnt < s.lens.length by omega), Nat.add_right_comm, Nat.add_assoc]

theorem repeatLens_past {len : BitVec 4} {n : Nat} {s : State} (h : ¬s.ncnt + n ≤ s.nlen + s.ndist) :
    repeatLens len n s = s.raise .e10 := if_pos (Nat.not_le.1 h)

theorem repeatLens_fits {len : BitVec 4} {n : Nat} {s : State} (h : s.ncnt + n ≤ s.nlen + s.ndist)
    (hlens : s.nlen + s.ndist ≤ s.lens.length) :
    repeatLens len n s = { s with lens := putRun s.ncnt n len s.lens, ncnt := s.ncnt + n } :=
  (if_neg (Nat.not_lt.2 h)).trans (pushLens_putRun len (h.trans hlens))

/-- CL_REPEAT_PREV with a length before it is a run of that length (42_blocks.md R257). -/
theorem execClRepeatPrev_of_pos {s : State} (h : s.ncnt ≠ 0) (cw : Codeword) (r : BitVec 2) :
    execClRepeatPrev cw r s =
      .next (repeatLens (s.lens.getD (s.ncnt - 1) 0) (3 + r.toNat) (s.dropBits (cw.len + 2))) :=
  congrArg _ ((if_neg h).trans (congrArg _ (dropBits_dropBits cw.len 2 s)))

theorem execClZeroShort_eq (cw : Codeword) (r : BitVec 3) (s : State) :
    execClZeroShort cw r s = .next (repeatLens 0 (3 + r.toNat) (s.dropBits (cw.len + 3))) := by
  rw [execClZeroShort, dropBits_dropBits, zeroShortCount]

theorem execClZeroLong_eq (cw : Codeword) (r : BitVec 7) (s : State) :
    execClZeroLong cw r s = .next (repeatLens 0 (11 + r.toNat) (s.dropBits (cw.len + 7))) := by
  rw [execClZeroLong, dropBits_dropBits, zeroLongCount]

/-- Settles O25: each symbol is a run of lengths behind its dropped bits, written where it fits and E10 past the
end. -/
theorem codeLengthResults : Obligations.CodeLengthResults := by
  intro cw v r2 r3 r7 s hlens
  refine ⟨fun hfit => ?one, fun hnone => ?prevNone, fun hsome hpast => ?prevPast, fun hsome hfit => ?prevFits,
    fun hpast => ?shortPast, fun hfit => ?shortFits, fun hpast => ?longPast, fun hfit => ?longFits⟩
  case one => exact congrArg _ (pushLens_putRun v (s := s.dropBits cw.len) (hfit.trans hlens))
  case prevNone => exact congrArg _ (if_pos hnone)
  case prevPast => exact (execClRepeatPrev_of_pos hsome cw r2).trans (congrArg _ (repeatLens_past hpast))
  case prevFits => exact (execClRepeatPrev_of_pos hsome cw r2).trans (congrArg _ (repeatLens_fits hfit hlens))
  case shortPast => exact (execClZeroShort_eq cw r3 s).trans (congrArg _ (repeatLens_past hpast))
  case shortFits => exact (execClZeroShort_eq cw r3 s).trans (congrArg _ (repeatLens_fits hfit hlens))
  case longPast => exact (execClZeroLong_eq cw r7 s).trans (congrArg _ (repeatLens_past hpast))
  case longFits => exact (execClZeroLong_eq cw r7 s).trans (congrArg _ (repeatLens_fits hfit hlens))

/-! ### The codes -/

/-- The lengths with 0 for the code-length symbols at the positions `is` of ORDER (42_blocks.md R256). -/
def clearClLens (is : List Nat) (l : List (BitVec 4)) : List (BitVec 4) :=
  is.foldl (fun l i => l.set (clOrder.getD i 0) 0) l

theorem zeroClLens_clear (is : List Nat) (s : State) : zeroClLens is s = { s with lens := clearClLens is s.lens } := by
  induction is generalizing s with
  | nil => rfl
  | cons i is ih => exact ih (s.setLens (clOrder.getD i 0) 0)

/-- LENLENS with its lengths read and the symbols that got none at length 0 (42_blocks.md R256). -/
def State.clLensFilled (s : State) : State :=
  { s with lens := clearClLens ((List.range 19).drop s.ncnt) s.lens, ncnt := 19 }

theorem zeroClLens_filled {s : State} (h : s.ncnt ≤ 19) :
    { zeroClLens ((List.range 19).drop s.ncnt) s with ncnt := max s.ncnt 19 } = s.clLensFilled := by
  rw [zeroClLens_clear, Nat.max_eq_right h]
  rfl

theorem buildClTable_refused {s : State} (h : s.ncnt ≤ 19) (hc : buildClCode (lensSlice 0 19 s.clLensFilled) = none) :
    buildClTable s = s.clLensFilled.raise .e9 := by
  rw [buildClTable, zeroClLens_filled h, hc]

theorem buildClTable_built {s : State} (h : s.ncnt ≤ 19) {c : Code ClEntry}
    (hc : buildClCode (lensSlice 0 19 s.clLensFilled) = some c) :
    buildClTable s = { s.clLensFilled with ncnt := 0, clcode := c, mode := .codelens } := by
  rw [buildClTable, zeroClLens_filled h]
  dsimp only
  rw [hc]
  rfl

theorem buildTables_noEndOfBlock {s : State} (h : s.lens.getD 256 0 = 0) : buildTables s = s.raise .e11 := if_pos h

theorem buildTables_badLl {s : State} (h : s.lens.getD 256 0 ≠ 0)
    (hl : buildLlCode (lensSlice 0 s.nlen s) = none) : buildTables s = s.raise .e12 := by
  rw [buildTables, if_neg h, hl]

theorem buildTables_badDist {s : State} (h : s.lens.getD 256 0 ≠ 0) {l : Code LlEntry}
    (hl : buildLlCode (lensSlice 0 s.nlen s) = some l) (hd : buildDistCode (lensSlice s.nlen s.ndist s) = none) :
    buildTables s = { s with lcode := l }.raise .e13 := by
  rw [buildTables, if_neg h, hl]
  dsimp only
  rw [hd]

theorem buildTables_built {s : State} (h : s.lens.getD 256 0 ≠ 0) {l : Code LlEntry} {d : Code DistEntry}
    (hl : buildLlCode (lensSlice 0 s.nlen s) = some l) (hd : buildDistCode (lensSlice s.nlen s.ndist s) = some d) :
    buildTables s = stopForTrees { s with lcode := l, dcode := d, mode := .len_ } := by
  rw [buildTables, if_neg h, hl]
  dsimp only
  rw [hd]
  rfl

section

variable {s : State} (hr : s.running = true)
include hr

theorem step_lenlens_read (hm : s.mode = .lenlens) (hread : s.ncode ≤ s.ncnt) : step s = .next (buildClTable s) :=
  step_of_rule hr (fun s => .next (buildClTable s)) hm (if_neg (Nat.not_lt.2 hread))

theorem step_codelens_read (hm : s.mode = .codelens) (hread : s.nlen + s.ndist ≤ s.ncnt) :
    step s = .next (buildTables s) :=
  step_of_rule hr (fun s => .next (buildTables s)) hm (if_neg (Nat.not_lt.2 hread))

end

/-- Settles O26: the step is the mode's build, which takes the branch its clause names. -/
theorem tableBuildResults : Obligations.TableBuildResults := by
  intro s hr
  refine ⟨fun hm hread hmax => ⟨fun hnone => ?clBad, fun c hc => ?clBuilt⟩, fun hm hread =>
    ⟨fun h => ?noEnd, fun h hl => ?llBad, fun l h hl hd => ?distBad, fun l d h hl hd => ?built⟩⟩
  case clBad => exact (step_lenlens_read hr hm hread).trans (congrArg _ (buildClTable_refused hmax hnone))
  case clBuilt => exact (step_lenlens_read hr hm hread).trans (congrArg _ (buildClTable_built hmax hc))
  case noEnd => exact (step_codelens_read hr hm hread).trans (congrArg _ (buildTables_noEndOfBlock h))
  case llBad => exact (step_codelens_read hr hm hread).trans (congrArg _ (buildTables_badLl h hl))
  case distBad => exact (step_codelens_read hr hm hread).trans (congrArg _ (buildTables_badDist h hl hd))
  case built => exact (step_codelens_read hr hm hread).trans (congrArg _ (buildTables_built h hl hd))

end Sys2Proof.Machine
end

section
/-! Built codes (43_huffman.md R301 to R304): the Kraft sum is the end of the codewords of length 15, which decides what BuildCode answers; the canonical codewords of each length follow one another, and the lengths' ranges keep one codeword from beginning another. -/

namespace Sys2Proof

/-! ### The bit budget -/

/-- Codewords of more bits lie above the extensions of the shorter ones (43_huffman.md R303). -/
theorem codeEnd_mul_le (lens : List Nat) (l n : Nat) : codeEnd lens l * 2 ^ n ≤ codeEnd lens (l + n) := by
  induction n with
  | zero => simp
  | succ n ih =>
    rw [← Nat.add_assoc, codeEnd, pow_succ, ← Nat.mul_assoc]
    omega

/-- The budget left is the room above the last codeword; without room the lengths are over-subscribed
(43_huffman.md R301). -/
theorem lengthBudget_eq (lens : List Nat) (l : Nat) :
    lengthBudget lens l = if codeEnd lens l ≤ 2 ^ l then some (2 ^ l - codeEnd lens l) else none := by
  induction l with
  | zero => rfl
  | succ l ih =>
    have hpow : 2 ^ (l + 1) = 2 * 2 ^ l := pow_succ' 2 l
    rw [lengthBudget, ih, codeEnd, hpow]
    by_cases hl : codeEnd lens l ≤ 2 ^ l
    · rw [if_pos hl]
      dsimp only
      by_cases hfit : lengthCount lens (l + 1) ≤ 2 * (2 ^ l - codeEnd lens l)
      · rw [if_pos hfit, if_pos (by omega)]
        congr 1
        omega
      · rw [if_neg hfit, if_neg (by omega)]
    · rw [if_neg hl, if_neg (by omega)]

/-- One more symbol of length `a` takes the `2^(l-a)` numbers that begin with its codeword. -/
theorem codeEnd_cons (a : Nat) (lens : List Nat) (l : Nat) :
    codeEnd (a :: lens) l = codeEnd lens l + if a = 0 ∨ l < a then 0 else 2 ^ (l - a) := by
  induction l with
  | zero =>
    rw [if_pos (by omega)]
    rfl
  | succ l ih =>
    have hcount : lengthCount (a :: lens) (l + 1) = lengthCount lens (l + 1) + if a = l + 1 then 1 else 0 := by
      simp [lengthCount, List.count_cons]
    rw [codeEnd, codeEnd, ih, hcount]
    by_cases hout : a = 0 ∨ l + 1 < a
    · rw [if_pos hout, if_pos (by omega), if_neg (by omega)]
      rfl
    · obtain rfl | hin := eq_or_ne a (l + 1)
      · rw [if_pos (by omega), if_pos rfl, if_neg hout, Nat.sub_self]
        omega
      · rw [if_neg (by omega), if_neg hin, if_neg hout, Nat.succ_sub (by omega), pow_succ]
        omega

theorem codeEnd_nil (l : Nat) : codeEnd [] l = 0 := by
  induction l with
  | zero => rfl
  | succ l ih => simp [codeEnd, ih, lengthCount]

/-- The Kraft sum is where the codewords of length 15 end (43_huffman.md R301, R303). -/
theorem kraftSum_eq_codeEnd {lens : List Nat} (h : ∀ l ∈ lens, l ≤ 15) : kraftSum lens = codeEnd lens 15 := by
  induction lens with
  | nil => rw [codeEnd_nil]; rfl
  | cons a lens ih =>
    obtain ⟨ha, hlens⟩ := List.forall_mem_cons.1 h
    have hcond : (a = 0 ∨ 15 < a) ↔ a = 0 := by omega
    rw [codeEnd_cons, ← ih hlens, Nat.add_comm]
    simp only [kraftSum, List.map_cons, List.sum_cons, hcond, Config.maxBits]

/-- The codewords of one bit fill at most the Kraft sum (43_huffman.md R301). -/
theorem count_one_mul_le_kraftSum {lens : List Nat} (h : ∀ l ∈ lens, l ≤ 15) :
    lens.count 1 * 2 ^ 14 ≤ kraftSum lens := by
  have hone : codeEnd lens 1 = lens.count 1 := by simp [codeEnd, lengthCount]
  rw [kraftSum_eq_codeEnd h, ← hone]
  exact codeEnd_mul_le lens 1 14

theorem kraftSum_eq_zero_iff (lens : List Nat) : kraftSum lens = 0 ↔ ∀ l ∈ lens, l = 0 := by
  simp [kraftSum, List.sum_eq_zero_iff]

theorem maxLength_le_iff (lens : List Nat) (n : Nat) : maxLength lens ≤ n ↔ ∀ l ∈ lens, l ≤ n := by
  suffices h : ∀ m, lens.foldl max m ≤ n ↔ m ≤ n ∧ ∀ l ∈ lens, l ≤ n by simpa [maxLength] using h 0
  induction lens with
  | nil => simp
  | cons a lens ih => simp [ih, and_assoc]

theorem maxLength_eq_zero_iff (lens : List Nat) : maxLength lens = 0 ↔ kraftSum lens = 0 := by
  rw [kraftSum_eq_zero_iff, ← Nat.le_zero, maxLength_le_iff]
  simp only [Nat.le_zero]

/-! ### Canonical codewords -/

/-- The first code of a length is the sum over the shorter lengths (43_huffman.md R303). -/
theorem two_mul_codeEnd (lens : List Nat) (l : Nat) :
    2 * codeEnd lens l = ((List.range (l + 1)).map fun j => lengthCount lens j * 2 ^ (l + 1 - j)).sum := by
  induction l with
  | zero => simp [codeEnd, lengthCount]
  | succ l ih =>
    have hdouble : (List.range (l + 1)).map (fun j => lengthCount lens j * 2 ^ (l + 1 + 1 - j)) =
        (List.range (l + 1)).map (fun j => 2 * (lengthCount lens j * 2 ^ (l + 1 - j))) := by
      refine List.map_congr_left fun j hj => ?_
      rw [Nat.succ_sub (List.mem_range.1 hj).le, pow_succ, Nat.mul_comm 2, Nat.mul_assoc]
    rw [codeEnd, ih, List.range_succ (n := l + 1), List.map_append, List.sum_append, hdouble, List.sum_map_mul_left]
    have hlast : l + 1 + 1 - (l + 1) = 1 := by omega
    rw [List.map_singleton, List.sum_singleton, hlast]
    omega

section

variable {ε : Type} {entry : Nat → ε}

theorem assignCodes_length (sym : Nat) (lens next : List Nat) :
    (assignCodes entry sym lens next).length = (lens.filter (fun l => l != 0)).length := by
  induction lens generalizing sym next with
  | nil => rfl
  | cons a lens ih =>
    rw [assignCodes]
    split
    next h => rw [ih, List.filter_cons_of_neg (by simp [h])]
    next h => rw [List.length_cons, ih, List.filter_cons_of_pos (by simp [h]), List.length_cons]

/-- `next` after a codeword of length `a` is assigned (43_huffman.md R303). -/
theorem getD_set_succ {next : List Nat} {l : Nat} (hl : l < next.length) (a : Nat) :
    (next.set a (next.getD a 0 + 1)).getD l 0 = next.getD l 0 + if a = l then 1 else 0 := by
  obtain rfl | ha := eq_or_ne a l
  · simp [List.getElem?_set_self hl]
  · simp [List.getElem?_set_ne ha, ha]

/-- A symbol's codeword is the next one of its length after those of the symbols before it (43_huffman.md R303). -/
theorem mem_assignCodes_of_getElem? {i l sym : Nat} {lens next : List Nat} (hi : lens[i]? = some l) (hl : l ≠ 0)
    (hlen : l < next.length) :
    (⟨l, next.getD l 0 + (lens.take i).count l⟩, entry (sym + i)) ∈ assignCodes entry sym lens next := by
  induction lens generalizing i sym next with
  | nil => simp at hi
  | cons a lens ih =>
    rw [assignCodes]
    cases i with
    | zero =>
      obtain rfl : a = l := by simpa using hi
      simp [hl]
    | succ i =>
      have hsym : sym + (i + 1) = sym + 1 + i := by omega
      rw [List.getElem?_cons_succ] at hi
      rw [List.take_succ_cons, List.count_cons, hsym]
      split
      next ha => simpa [ha, hl.symm] using ih (sym := sym + 1) hi hlen
      next ha =>
        have htail := ih (sym := sym + 1) (next := next.set a (next.getD a 0 + 1)) hi (by simpa using hlen)
        rw [getD_set_succ hlen] at htail
        refine List.mem_cons_of_mem _ ?_
        simpa [Nat.add_assoc, Nat.add_comm] using htail

/-- Every codeword assigned is one of the numbers that follow its length's first code (43_huffman.md R303). -/
theorem assignCodes_bounds {sym : Nat} {lens next : List Nat} (hlens : ∀ l ∈ lens, l < next.length)
    {p : Codeword × ε} (hp : p ∈ assignCodes entry sym lens next) :
    p.1.len ∈ lens ∧ p.1.len ≠ 0 ∧ next.getD p.1.len 0 ≤ p.1.code ∧
      p.1.code < next.getD p.1.len 0 + lens.count p.1.len := by
  induction lens generalizing sym next with
  | nil => simp [assignCodes] at hp
  | cons a lens ih =>
    obtain ⟨ha, hlens⟩ := List.forall_mem_cons.1 hlens
    rw [assignCodes] at hp
    rw [List.count_cons]
    split at hp
    next h0 =>
      obtain ⟨hmem, hpos, hlo, hhi⟩ := ih hlens hp
      exact ⟨List.mem_cons_of_mem _ hmem, hpos, hlo, by omega⟩
    next h0 =>
      obtain rfl | hp := List.mem_cons.1 hp
      · simp [h0]
      · obtain ⟨hmem, hpos, hlo, hhi⟩ := ih (by simpa using hlens) hp
        rw [getD_set_succ (hlens _ hmem)] at hlo hhi
        refine ⟨List.mem_cons_of_mem _ hmem, hpos, by omega, ?_⟩
        simp only [beq_iff_eq]
        omega

/-- Codewords of one length are assigned in increasing order (43_huffman.md R303). -/
theorem assignCodes_pairwise {sym : Nat} {lens next : List Nat} (hlens : ∀ l ∈ lens, l < next.length) :
    (assignCodes entry sym lens next).Pairwise fun p q => p.1.len = q.1.len → p.1.code < q.1.code := by
  induction lens generalizing sym next with
  | nil => exact .nil
  | cons a lens ih =>
    obtain ⟨ha, hlens⟩ := List.forall_mem_cons.1 hlens
    have hlens' : ∀ l ∈ lens, l < (next.set a (next.getD a 0 + 1)).length := by simpa using hlens
    rw [assignCodes]
    split
    · exact ih hlens
    · refine List.pairwise_cons.2 ⟨fun q hq hlen => ?_, ih hlens'⟩
      obtain ⟨-, -, hlo, -⟩ := assignCodes_bounds hlens' hq
      dsimp only at hlen ⊢
      rw [← hlen, getD_set_succ ha, if_pos rfl] at hlo
      exact hlo

variable {lens : List Nat}

/-- The codewords of a length lie from its first code up to its end (43_huffman.md R303). -/
theorem canonicalCode_bounds (h : ∀ l ∈ lens, l ≤ 15) {p : Codeword × ε} (hp : p ∈ canonicalCode entry lens) :
    ∃ l < 15, p.1.len = l + 1 ∧ 2 * codeEnd lens l ≤ p.1.code ∧ p.1.code < codeEnd lens (l + 1) := by
  obtain ⟨hmem, hpos, hlo, hhi⟩ :=
    assignCodes_bounds (fun l hl => by rw [firstCodes_length]; exact Nat.lt_succ_of_le (h l hl)) hp
  obtain ⟨l, hl⟩ := Nat.exists_eq_succ_of_ne_zero hpos
  have h15 : l < 15 := by have := h _ hmem; omega
  rw [hl, firstCodes_getD lens h15] at hlo hhi
  refine ⟨l, h15, hl, hlo, ?_⟩
  rwa [codeEnd, lengthCount, if_neg (Nat.succ_ne_zero l)]

end

/-- Settles O7: the recurrence of R303 solved by `two_mul_codeEnd`. -/
theorem canonicalCodewordsInSymbolOrder : Obligations.CanonicalCodewordsInSymbolOrder := by
  intro ε entry lens h
  refine ⟨assignCodes_length 0 lens _, fun sym l hsym hl => ?_⟩
  have h15 := h l (List.mem_of_getElem? hsym)
  have hmem := mem_assignCodes_of_getElem? (entry := entry) (sym := 0) hsym hl
    (next := firstCodes lens) (by rw [firstCodes_length]; omega)
  obtain ⟨l, rfl⟩ := Nat.exists_eq_succ_of_ne_zero hl
  rwa [firstCodes_getD lens h15, two_mul_codeEnd, Nat.zero_add] at hmem

section

variable {ε : Type} {entry : Nat → ε} {lens : List Nat}

/-! ### Prefix-freeness -/

/-- A longer codeword of a canonical code begins with a number past the shorter length's end (43_huffman.md R304). -/
theorem canonicalCode_not_prefix (h : ∀ l ∈ lens, l ≤ 15) {p q : Codeword × ε} (hp : p ∈ canonicalCode entry lens)
    (hq : q ∈ canonicalCode entry lens) (hne : p.1.len = q.1.len → p.1.code ≠ q.1.code) {n : Nat}
    (hlen : p.1.len = q.1.len + n) : p.1.code / 2 ^ n ≠ q.1.code := by
  obtain ⟨i, -, hpi, hplo, -⟩ := canonicalCode_bounds h hp
  obtain ⟨j, -, hqj, -, hqhi⟩ := canonicalCode_bounds h hq
  cases n with
  | zero => simpa using hne hlen
  | succ n =>
    have hij : i = j + 1 + n := by omega
    have hend := codeEnd_mul_le lens (j + 1) n
    have hle : codeEnd lens (j + 1) ≤ p.1.code / 2 ^ (n + 1) := by
      rw [Nat.le_div_iff_mul_le (Nat.two_pow_pos _), pow_succ, ← Nat.mul_assoc]
      rw [hij] at hplo
      omega
    exact (hqhi.trans_le hle).ne'

theorem canonicalCode_prefixFree (h : ∀ l ∈ lens, l ≤ 15) : (canonicalCode entry lens).prefixFree := by
  have hpair : (canonicalCode entry lens).Pairwise fun p q => p.1.len = q.1.len → p.1.code < q.1.code :=
    assignCodes_pairwise fun l hl => by rw [firstCodes_length]; exact Nat.lt_succ_of_le (h l hl)
  refine ⟨hpair.imp_of_mem fun hp hq hlt n => ?_, hpair.imp_of_mem fun hp hq hlt n => ?_⟩
  · exact canonicalCode_not_prefix h hp hq fun hlen => (hlt hlen).ne
  · exact canonicalCode_not_prefix h hq hp fun hlen => (hlt hlen.symm).ne'

theorem canonicalCode_wellFormed (h : ∀ l ∈ lens, l ≤ 15) (hkraft : kraftSum lens ≤ 2 ^ 15) {p : Codeword × ε}
    (hp : p ∈ canonicalCode entry lens) : p.1.wellFormed = true := by
  obtain ⟨l, hl, hlen, -, hhi⟩ := canonicalCode_bounds h hp
  rw [kraftSum_eq_codeEnd h, show 15 = l + 1 + (14 - l) by omega, pow_add] at hkraft
  have hend := Nat.le_of_mul_le_mul_right ((codeEnd_mul_le ..).trans hkraft) (Nat.two_pow_pos _)
  rw [Codeword.wellFormed_iff, hlen]
  exact ⟨by omega, by omega, hhi.trans_le hend⟩

/-! ### BuildCode -/

/-- The only codeword of one bit is `0` (43_huffman.md R302). -/
theorem canonicalCode_of_single (h : ∀ l ∈ lens, l ≤ 1) (hone : lens.count 1 = 1) :
    ∃ sym, lens[sym]? = some 1 ∧ (∀ j, lens[j]? = some 1 → j = sym) ∧
      canonicalCode entry lens = [(⟨1, 0⟩, entry sym)] := by
  have h15 : ∀ l ∈ lens, l ≤ 15 := fun l hl => (h l hl).trans (by decide)
  have hfilter : (lens.filter (fun l => l != 0)).length = 1 := by
    rw [← hone, List.count, List.countP_eq_length_filter]
    refine congrArg _ (List.filter_congr fun l hl => ?_)
    have := h l hl
    interval_cases l <;> rfl
  have hsingle {ε : Type} {entry : Nat → ε} {p q : Codeword × ε} (hp : p ∈ canonicalCode entry lens)
      (hq : q ∈ canonicalCode entry lens) : p = q ∧ canonicalCode entry lens = [p] := by
    obtain ⟨r, hr⟩ := List.length_eq_one_iff.1 (((canonicalCodewordsInSymbolOrder _ entry lens h15).1).trans hfilter)
    rw [hr] at hp hq ⊢
    rw [List.mem_singleton.1 hp, List.mem_singleton.1 hq]
    exact ⟨rfl, rfl⟩
  have hmem {ε : Type} (entry : Nat → ε) {j : Nat} (hj : lens[j]? = some 1) :
      ∃ code, (⟨1, code⟩, entry j) ∈ canonicalCode entry lens :=
    ⟨_, (canonicalCodewordsInSymbolOrder _ entry lens h15).2 j 1 hj one_ne_zero⟩
  obtain ⟨sym, hsym⟩ := List.mem_iff_getElem?.1 (List.count_pos_iff.1 (by omega : 0 < lens.count 1))
  obtain ⟨code, hcode⟩ := hmem entry hsym
  refine ⟨sym, hsym, fun j hj => ?_, ?_⟩
  · obtain ⟨_, hj⟩ := hmem id hj
    obtain ⟨_, hsym⟩ := hmem id hsym
    exact congrArg Prod.snd (hsingle hj hsym).1
  · obtain ⟨l, -, hl, -, hhi⟩ := canonicalCode_bounds h15 hcode
    obtain rfl : l = 0 := by simpa using hl.symm
    have hzero : code = 0 := by simpa [codeEnd, lengthCount, hone] using hhi
    rw [(hsingle hcode hcode).2, hzero]

variable {kind : CodeKind} {invalid : ε}

theorem buildCode_of_empty (h : ∀ l ∈ lens, l = 0) :
    buildCode kind entry invalid lens = some [(⟨1, 0⟩, invalid), (⟨1, 1⟩, invalid)] :=
  if_pos ((maxLength_eq_zero_iff lens).2 ((kraftSum_eq_zero_iff lens).2 h))

/-- With a codeword present the Kraft sum decides what BuildCode answers (43_huffman.md R302). -/
theorem buildCode_of_pos (h : ∀ l ∈ lens, l ≤ 15) (hpos : 0 < kraftSum lens) :
    buildCode kind entry invalid lens =
      if 2 ^ 15 < kraftSum lens then none
      else if kraftSum lens = 2 ^ 15 then some (canonicalCode entry lens)
      else if kind = .codes ∨ maxLength lens ≠ 1 then none
      else some (canonicalCode entry lens ++ [(⟨1, 1⟩, invalid)]) := by
  have hmax : maxLength lens ≠ 0 := fun h0 => hpos.ne' ((maxLength_eq_zero_iff lens).1 h0)
  have hbudget := lengthBudget_eq lens Config.maxBits
  rw [show Config.maxBits = 15 from rfl, ← kraftSum_eq_codeEnd h] at hbudget
  rw [buildCode, if_neg hmax, show Config.maxBits = 15 from rfl, hbudget]
  obtain hlt | heq | hgt := Nat.lt_trichotomy (kraftSum lens) (2 ^ 15)
  · obtain ⟨left, hleft⟩ := Nat.exists_eq_succ_of_ne_zero (Nat.sub_ne_zero_of_lt hlt)
    rw [if_pos hlt.le, if_neg hlt.not_gt, if_neg hlt.ne, hleft]
  · rw [if_pos heq.le, if_neg heq.le.not_gt, if_pos heq, heq, Nat.sub_self]
  · rw [if_neg hgt.not_ge, if_pos hgt]

/-- Lengths whose only codeword has one bit (43_huffman.md R302: the single code). -/
theorem buildCode_of_single (h : ∀ l ∈ lens, l ≤ 1) (hpos : 0 < kraftSum lens) (hlt : kraftSum lens < 2 ^ 15)
    (hkind : kind ≠ .codes) :
    ∃ sym, lens[sym]? = some 1 ∧ (∀ j, lens[j]? = some 1 → j = sym) ∧
      buildCode kind entry invalid lens = some [(⟨1, 0⟩, entry sym), (⟨1, 1⟩, invalid)] := by
  have h15 : ∀ l ∈ lens, l ≤ 15 := fun l hl => (h l hl).trans (by decide)
  have hmax : maxLength lens = 1 := by
    have hle := (maxLength_le_iff lens 1).2 h
    have hne := mt (maxLength_eq_zero_iff lens).1 hpos.ne'
    omega
  have hone : lens.count 1 = 1 := by
    have hle := count_one_mul_le_kraftSum h15
    have hmem : 0 < lens.count 1 := List.count_pos_iff.2 (hmax ▸ maxLength_mem (by omega))
    omega
  obtain ⟨sym, hsym, huniq, hcode⟩ := canonicalCode_of_single (entry := entry) h hone
  refine ⟨sym, hsym, huniq, ?_⟩
  rw [buildCode_of_pos h15 hpos, if_neg hlt.not_gt, if_neg hlt.ne, if_neg (by simp [hkind, hmax]), hcode]
  rfl

/-- A code that BuildCode answers has just the two codewords of one bit, or is canonical (43_huffman.md R302). -/
theorem buildCode_cases {c : Code ε} (h : ∀ l ∈ lens, l ≤ 15) (hc : buildCode kind entry invalid lens = some c) :
    (∃ e, c = [(⟨1, 0⟩, e), (⟨1, 1⟩, invalid)]) ∨ kraftSum lens ≤ 2 ^ 15 ∧ c = canonicalCode entry lens := by
  obtain h0 | hpos := Nat.eq_zero_or_pos (kraftSum lens)
  · rw [buildCode_of_empty ((kraftSum_eq_zero_iff lens).1 h0)] at hc
    exact .inl ⟨invalid, (Option.some.inj hc).symm⟩
  have hanswer := buildCode_of_pos (kind := kind) (entry := entry) (invalid := invalid) h hpos
  rw [hc] at hanswer
  split at hanswer
  · cases hanswer
  split at hanswer
  next heq => exact .inr ⟨heq.le, Option.some.inj hanswer⟩
  split at hanswer
  · cases hanswer
  next hgt hne hone =>
  simp only [not_or, not_not] at hone
  obtain ⟨sym, -, -, hsingle⟩ := buildCode_of_single (entry := entry) (invalid := invalid)
    ((maxLength_le_iff lens 1).1 hone.2.le) hpos (by omega) hone.1
  exact .inl ⟨entry sym, Option.some.inj (hc.symm.trans hsingle)⟩

end

/-- Settles O6: the Kraft sum is the end of the codewords of length 15. -/
theorem buildCodeAcceptsExactlyTheseLengths : Obligations.BuildCodeAcceptsExactlyTheseLengths := by
  intro ε kind entry invalid lens h
  refine ⟨fun hempty => buildCode_of_empty hempty, fun hover => ?overSubscribed, fun hpos hlt hmany => ?incomplete,
    fun hpos hlt hkind hone => buildCode_of_single hone hpos hlt hkind, fun hfull => ?complete⟩
  case overSubscribed => rw [buildCode_of_pos h (by omega), if_pos hover]
  case incomplete =>
    have hrefused : kind = .codes ∨ maxLength lens ≠ 1 := hmany.imp_right fun ⟨l, hl, hl1⟩ hmax =>
      absurd ((maxLength_le_iff lens 1).1 hmax.le l hl) (by omega)
    rw [buildCode_of_pos h hpos, if_neg hlt.not_gt, if_neg hlt.ne, if_pos hrefused]
  case complete => rw [buildCode_of_pos h (by omega), if_neg hfull.le.not_gt, if_pos hfull]

/-- Settles O8: the lengths' ranges of numbers keep canonical codewords apart. -/
theorem builtCodesArePrefixFree : Obligations.BuiltCodesArePrefixFree := by
  intro ε kind entry invalid lens c h hc
  obtain ⟨e, rfl⟩ | ⟨hkraft, rfl⟩ := buildCode_cases h hc
  · exact ⟨by simp [Code.prefixFree], by simp [Codeword.wellFormed_iff]⟩
  · exact ⟨canonicalCode_prefixFree h, fun p hp => canonicalCode_wellFormed h hkraft hp⟩

/-- Settles O9 by `buildCode_covers`. -/
theorem builtCodesCoverEveryPattern : Obligations.BuiltCodesCoverEveryPattern :=
  fun _ _ _ _ _ _ _ hc => buildCode_covers hc

/-- Settles O10 by `decodePeek_of_reads`. -/
theorem decodePeekReadsTheCodewordAhead : Obligations.DecodePeekReadsTheCodewordAhead :=
  fun _ _ _ _ _ _ hreads hcw hq hs => decodePeek_of_reads hreads hcw hq hs

end Sys2Proof
end

section
/-! The packed tables decode as their code does (43_huffman.md R306 to R309, R312): whatever is held, one codeword of a built code begins it. If the root table is wide enough that codeword fills the slot read there; else its first bits select a link, and its other bits fill the slot read in the sub-table. -/

namespace Sys2Proof

/-! ### Reversed bits and held codewords -/

theorem revBits_mod (n x : Nat) : revBits n (x % 2 ^ n) = revBits n x := by
  refine bitsLsb_inj (revBits_lt n _) (revBits_lt n _) ?_
  rw [bitsLsb_revBits, bitsLsb_revBits, bitsLsb_congr (Nat.mod_mod x _)]

theorem revBits_revBits (n x : Nat) : revBits n (revBits n x) = x % 2 ^ n := by
  refine bitsLsb_inj (revBits_lt n _) (Nat.mod_lt _ (Nat.two_pow_pos n)) ?_
  rw [bitsLsb_revBits, bitsLsb_revBits, List.reverse_reverse, bitsLsb_congr (Nat.mod_mod x _)]

theorem revBits_add (m n x : Nat) : revBits (m + n) x = revBits m x * 2 ^ n + revBits n (x / 2 ^ m) := by
  induction m generalizing x with
  | zero => simp [revBits]
  | succ m ih =>
    rw [Nat.succ_add, revBits, revBits, ih, Nat.div_div_eq_div_mul, ← pow_succ', pow_add]
    ring

/-- The bits `hold` begin with the codeword (43_huffman.md R305). -/
def Codeword.Heads (cw : Codeword) (hold : Nat) : Prop := revBits cw.len hold = cw.code

/-- The codeword's first `root` bits, which select the root entry of a longer codeword (43_huffman.md R308). -/
def Codeword.rootPart (root : Nat) (cw : Codeword) : Nat := cw.code / 2 ^ (cw.len - root)

/-- The codeword without its first `root` bits, which is what its sub-table stores (43_huffman.md R308). -/
def Codeword.subPart (root : Nat) (cw : Codeword) : Codeword := ⟨cw.len - root, cw.code % 2 ^ (cw.len - root)⟩

theorem heldCodeword_eq_iff (cw : Codeword) (hold : Nat) : heldCodeword hold cw.len = cw ↔ cw.Heads hold := by
  obtain ⟨len, code⟩ := cw
  simp [heldCodeword, Codeword.Heads, revBits_mod]

/-- The test of R308 for a slot of the table. -/
theorem Codeword.heads_iff {cw : Codeword} (h : cw.code < 2 ^ cw.len) (i : Nat) :
    i % 2 ^ cw.len = revBits cw.len cw.code ↔ cw.Heads i := by
  constructor
  · intro hi
    rw [Codeword.Heads, ← revBits_mod, hi, revBits_revBits, Nat.mod_eq_of_lt h]
  · intro hi
    rw [← hi, revBits_revBits]

theorem Codeword.heads_mod {cw : Codeword} {n : Nat} (h : cw.len ≤ n) (hold : Nat) :
    cw.Heads (hold % 2 ^ n) ↔ cw.Heads hold := by
  rw [Codeword.Heads, Codeword.Heads, ← revBits_mod _ (hold % 2 ^ n), Nat.mod_mod_of_dvd _ (pow_dvd_pow 2 h),
    revBits_mod]

/-- A codeword is found by its first `root` bits and then by the others (43_huffman.md R308). -/
theorem Codeword.heads_iff_parts {cw : Codeword} {root : Nat} (h : root ≤ cw.len) (hold : Nat) :
    cw.Heads hold ↔ cw.rootPart root = revBits root hold ∧ (cw.subPart root).Heads (hold / 2 ^ root) := by
  obtain ⟨n, hn⟩ := Nat.exists_eq_add_of_le h
  have hlt := revBits_lt n (hold / 2 ^ root)
  simp only [Codeword.Heads, Codeword.rootPart, Codeword.subPart, hn, Nat.add_sub_cancel_left, revBits_add]
  constructor
  · intro hcode
    rw [← hcode, Nat.mul_comm, Nat.mul_add_div (Nat.two_pow_pos n), Nat.div_eq_of_lt hlt, Nat.mul_add_mod,
      Nat.mod_eq_of_lt hlt]
    exact ⟨rfl, rfl⟩
  · intro ⟨hroot, hsub⟩
    rw [← hroot, hsub, Nat.mul_comm, Nat.div_add_mod]

/-- Only one codeword of a `prefixFree` code begins the bits held (43_huffman.md R304). -/
theorem Code.prefixFree.eq_of_heads {ε : Type} {c : Code ε} (h : c.prefixFree) {p q : Codeword × ε} (hp : p ∈ c)
    (hq : q ∈ c) {hold : Nat} (hph : p.1.Heads hold) (hqh : q.1.Heads hold) : p = q := by
  wlog hle : q.1.len ≤ p.1.len generalizing p q
  · exact (this hq hp hqh hph (Nat.le_of_not_le hle)).symm
  obtain ⟨n, hn⟩ := Nat.exists_eq_add_of_le hle
  have hroot := ((Codeword.heads_iff_parts hle hold).1 hph).1
  rw [hqh, Codeword.rootPart, hn, Nat.add_sub_cancel_left] at hroot
  exact h.eq_of_prefix hp hq hn hroot

/-- A covering code has a codeword that begins the bits `hold`, and DecodePeek finds it once it is all held
(43_huffman.md R315). -/
theorem Code.covers.exists_held {ε : Type} {c : Code ε} (h : c.covers) (q : BitStream) :
    ∃ p ∈ c, p.1.Heads q.hold.toNat ∧ c.held q = if p.1.len ≤ q.bits then some p else none := by
  obtain ⟨p, hp⟩ := Option.isSome_iff_exists.1 (h q.hold.toNat)
  obtain ⟨w, hw1, hw15, hcw, hlook, hbefore⟩ := Code.firstMatch_some hp
  obtain rfl : p.1.len = w := congrArg Codeword.len hcw
  refine ⟨p, Code.mem_of_lookup hlook, (heldCodeword_eq_iff _ _).1 hcw.symm, ?_⟩
  split
  next hheld =>
    cases hc : c.held q with
    | none =>
      have := Code.firstMatch_none.1 hc p.1.len hw1 (by omega)
      rw [← hcw, hlook] at this
      cases this
    | some r =>
      obtain ⟨v, hv1, -, hrcw, hrlook, hrbefore⟩ := Code.firstMatch_some hc
      obtain hv | rfl | hv := Nat.lt_trichotomy v p.1.len
      · rw [hrcw, hbefore v hv1 hv] at hrlook
        cases hrlook
      · rw [hrcw, ← hcw, hlook] at hrlook
        exact congrArg some (Prod.ext (hrcw.trans hcw.symm) (Option.some.inj hrlook).symm)
      · have := hrbefore p.1.len hw1 hv
        rw [← hcw, hlook] at this
        cases this
  next hshort => exact Code.firstMatch_none.2 fun v hv1 hv => hbefore v hv1 (by omega)

/-! ### Slots -/

section

variable {ε : Type} {pack : ε → BitVec 8 × BitVec 16} {c : Code ε}

/-- The slot at `i` is filled by the one codeword that begins the bits of `i` (43_huffman.md R308). -/
theorem slotOf_eq_some (hcode : ∀ q ∈ c, q.1.code < 2 ^ q.1.len) {p : Codeword × ε} (hp : p ∈ c) {i : Nat}
    (hpi : p.1.Heads i) (huniq : ∀ q ∈ c, q.1.Heads i → q = p) :
    slotOf pack c i = some ⟨(pack p.2).1, BitVec.ofNat 8 p.1.len, (pack p.2).2⟩ := by
  cases hfind : c.find? (fun x => decide (i % 2 ^ x.1.len = revBits x.1.len x.1.code)) with
  | none =>
    have := List.find?_eq_none.1 hfind p hp
    rw [decide_eq_true_eq, Codeword.heads_iff (hcode p hp)] at this
    exact absurd hpi this
  | some q =>
    have hq := List.mem_of_find?_eq_some hfind
    have hqi := List.find?_some hfind
    rw [decide_eq_true_eq, Codeword.heads_iff (hcode q hq)] at hqi
    rw [slotOf, hfind, huniq q hq hqi, Option.map_some]

theorem slotOf_eq_none (hcode : ∀ q ∈ c, q.1.code < 2 ^ q.1.len) {i : Nat} (h : ∀ q ∈ c, ¬q.1.Heads i) :
    slotOf pack c i = none := by
  refine Option.map_eq_none_iff.2 (List.find?_eq_none.2 fun q hq => ?_)
  rw [decide_eq_true_eq, Codeword.heads_iff (hcode q hq)]
  exact h q hq

/-! ### Sub-tables -/

variable {root : Nat}

theorem mem_subCode {pre : Nat} {y : Codeword × ε} :
    y ∈ subCode root c pre ↔
      ∃ x ∈ c, root < x.1.len ∧ x.1.rootPart root = pre ∧ y = (x.1.subPart root, x.2) := by
  simp only [subCode, List.mem_map, List.mem_filter, Bool.and_eq_true, decide_eq_true_eq, beq_iff_eq, and_assoc]
  exact exists_congr fun x => and_congr_right fun _ => and_congr_right fun _ => and_congr_right fun _ => eq_comm

theorem mem_linkPrefixes {pre : Nat} :
    pre ∈ linkPrefixes root c ↔ pre < 2 ^ root ∧ ∃ x ∈ c, root < x.1.len ∧ x.1.rootPart root = pre := by
  simp [linkPrefixes, Codeword.rootPart]

/-- A sub-table is just wide enough for the codewords that share its first bits (43_huffman.md R308). -/
theorem subWidth_le_iff (root : Nat) (c : Code ε) (pre n : Nat) :
    subWidth root c pre ≤ n ↔ ∀ x ∈ c, root < x.1.len → x.1.rootPart root = pre → x.1.len - root ≤ n := by
  suffices h : ∀ t, c.foldl (fun t x =>
      if root < x.1.len ∧ x.1.code / 2 ^ (x.1.len - root) = pre then max t (x.1.len - root) else t) t ≤ n ↔
      t ≤ n ∧ ∀ x ∈ c, root < x.1.len → x.1.rootPart root = pre → x.1.len - root ≤ n by
    simpa [subWidth] using h 0
  induction c with
  | nil => simp
  | cons x c ih =>
    intro t
    rw [List.foldl_cons, ih, List.forall_mem_cons, ← and_assoc]
    refine and_congr_left fun _ => ?_
    split
    next hx => simp [Codeword.rootPart, hx]
    next hx => exact (and_iff_left fun hlen hpre => absurd ⟨hlen, hpre⟩ hx).symm

theorem subTable_length (pre : Nat) : (subTable pack root c pre).length = 2 ^ subWidth root c pre := by
  simp [subTable]

/-- The sub-table of `pre` stands in the array where its link points (43_huffman.md R308); `before` is what the array
holds before the sub-tables. -/
theorem subOffsets_spec {ps : List Nat} {pre : Nat} (hmem : pre ∈ ps) (hlt : ∀ p ∈ ps, p < 2 ^ root)
    (before : List TableEntry) :
    ∃ offset, (subOffsets root c before.length ps).find? (fun p => revBits root p.1 == revBits root pre) =
        some (pre, offset) ∧
      offset + 2 ^ subWidth root c pre ≤ (before ++ ps.flatMap (subTable pack root c)).length ∧
      ∀ j < 2 ^ subWidth root c pre,
        (before ++ ps.flatMap (subTable pack root c)).getD (offset + j) .unfilled =
          (slotOf pack (subCode root c pre) j).getD .unfilled := by
  induction ps generalizing before with
  | nil => simp at hmem
  | cons p ps ih =>
    obtain ⟨hp, hps⟩ := List.forall_mem_cons.1 hlt
    rw [subOffsets, List.flatMap_cons]
    obtain rfl | hne := eq_or_ne p pre
    · refine ⟨before.length, by simp, by simp [subTable_length], fun j hj => ?_⟩
      have hslot : j < (subTable pack root c p).length := by rwa [subTable_length]
      rw [List.getD_append_right _ _ _ _ (Nat.le_add_right _ _), Nat.add_sub_cancel_left,
        List.getD_append _ _ _ _ hslot, List.getD_eq_getElem _ _ hslot]
      simp [subTable]
    · have hmem : pre ∈ ps := (List.mem_cons.1 hmem).resolve_left hne.symm
      have hrev : revBits root p ≠ revBits root pre := fun heq => hne <| by
        rw [← Nat.mod_eq_of_lt hp, ← revBits_revBits, heq, revBits_revBits, Nat.mod_eq_of_lt (hps pre hmem)]
      obtain ⟨offset, hfind, hle, hslots⟩ := ih hmem hps (before ++ subTable pack root c p)
      rw [List.length_append, subTable_length] at hfind
      rw [List.append_assoc] at hle hslots
      exact ⟨offset, by rw [List.find?_cons_of_neg (by simpa using hrev), hfind], hle, hslots⟩

end

/-! ### The table of a code -/

section

variable {ε : Type} {pack : ε → BitVec 8 × BitVec 16} {c : Code ε} {root : Nat}

/-- The whole array of a table: the root table, then the sub-tables (43_huffman.md R308). -/
theorem makeTable_length_le (h15 : ∀ p ∈ c, p.1.len ≤ 15) (hroot : root ≤ 15) :
    (makeTable pack root c).entries.length ≤ 2 ^ root + 2 ^ 15 := by
  have hsub : ∀ n ∈ (linkPrefixes root c).map fun p => (subTable pack root c p).length, n ≤ 2 ^ (15 - root) := by
    simp only [List.mem_map, subTable_length]
    rintro _ ⟨p, -, rfl⟩
    refine Nat.pow_le_pow_right (by decide) ((subWidth_le_iff root c p _).2 fun x hx _ _ => ?_)
    have := h15 x hx
    omega
  have hsum := List.sum_le_card_nsmul _ _ hsub
  have hcard : (linkPrefixes root c).length ≤ 2 ^ root := (List.length_filter_le _ _).trans_eq List.length_range
  have hmul := Nat.mul_le_mul_right (2 ^ (15 - root)) hcard
  rw [← pow_add, Nat.add_sub_cancel' hroot] at hmul
  rw [List.length_map, smul_eq_mul] at hsum
  simp only [makeTable, List.length_append, List.length_map, List.length_range, List.length_flatMap]
  omega

theorem makeTable_entry_root {i : Nat} (hi : i < 2 ^ root) :
    (makeTable pack root c).entry i =
      rootEntry pack root c (subOffsets root c (2 ^ root) (linkPrefixes root c)) i := by
  simp [Table.entry, makeTable, List.getElem?_append, hi]

variable {p : Codeword × ε} {hold : Nat}

section

variable (hfree : c.prefixFree) (hp : p ∈ c) (hph : p.1.Heads hold)
include hfree hp hph

/-- What is left of a codeword longer than the root fills the slot of its sub-table (43_huffman.md R308). -/
theorem slotOf_subCode (hlen : root < p.1.len) {n : Nat} (hn : subWidth root c (p.1.rootPart root) ≤ n) :
    slotOf pack (subCode root c (p.1.rootPart root)) (hold / 2 ^ root % 2 ^ n) =
      some ⟨(pack p.2).1, BitVec.ofNat 8 (p.1.len - root), (pack p.2).2⟩ := by
  have hwide := (subWidth_le_iff root c _ n).1 hn
  obtain ⟨hproot, hpsub⟩ := (Codeword.heads_iff_parts hlen.le hold).1 hph
  refine slotOf_eq_some (p := (p.1.subPart root, p.2)) (fun y hy => ?_) (mem_subCode.2 ⟨p, hp, hlen, rfl, rfl⟩)
    ((Codeword.heads_mod (hwide p hp hlen rfl) _).2 hpsub) fun y hy hyh => ?_
  · obtain ⟨x, -, -, -, rfl⟩ := mem_subCode.1 hy
    exact Nat.mod_lt _ (Nat.two_pow_pos _)
  · obtain ⟨x, hx, hxlen, hxroot, rfl⟩ := mem_subCode.1 hy
    have hxsub := (Codeword.heads_mod (hwide x hx hxlen hxroot) _).1 hyh
    have hxh := (Codeword.heads_iff_parts hxlen.le hold).2 ⟨hxroot.trans hproot, hxsub⟩
    rw [hfree.eq_of_heads hx hp hxh hph]

variable (hcw : ∀ p ∈ c, p.1.wellFormed = true)
include hcw

/-- A codeword that fits the root table fills the slot read there (43_huffman.md R308). -/
theorem makeTable_entry_of_le (hlen : p.1.len ≤ root) :
    (makeTable pack root c).entry (hold % 2 ^ root) =
      ⟨(pack p.2).1, BitVec.ofNat 8 p.1.len, (pack p.2).2⟩ := by
  have hslot : slotOf pack (c.filter (fun x => decide (x.1.len ≤ root))) (hold % 2 ^ root) =
      some ⟨(pack p.2).1, BitVec.ofNat 8 p.1.len, (pack p.2).2⟩ := by
    refine slotOf_eq_some (fun q hq => ?_) (by simp [hp, hlen]) ((Codeword.heads_mod hlen hold).2 hph)
      fun q hq hqh => ?_
    · exact (Codeword.wellFormed_iff.1 (hcw q (List.mem_filter.1 hq).1)).2.2
    · obtain ⟨hq, hqlen⟩ := List.mem_filter.1 hq
      exact hfree.eq_of_heads hq hp ((Codeword.heads_mod (of_decide_eq_true hqlen) hold).1 hqh) hph
  rw [makeTable_entry_root (Nat.mod_lt _ (Nat.two_pow_pos _)), rootEntry, hslot]

/-- No codeword fills the root slot that a longer codeword selects (43_huffman.md R308). -/
theorem slotOf_root_eq_none (hlen : root < p.1.len) :
    slotOf pack (c.filter (fun x => decide (x.1.len ≤ root))) (hold % 2 ^ root) = none := by
  refine slotOf_eq_none (fun q hq => ?_) fun q hq hqh => ?_
  · exact (Codeword.wellFormed_iff.1 (hcw q (List.mem_filter.1 hq).1)).2.2
  · obtain ⟨hq, hqlen⟩ := List.mem_filter.1 hq
    have hqlen : q.1.len ≤ root := of_decide_eq_true hqlen
    rw [hfree.eq_of_heads hq hp ((Codeword.heads_mod hqlen hold).1 hqh) hph] at hqlen
    omega

/-- A codeword longer than the root is read through a link: the slot read in the sub-table is its own
(43_huffman.md R308). -/
theorem makeTable_entry_of_lt (hlen : root < p.1.len) :
    ∃ t offset, 1 ≤ t ∧ t ≤ 15 ∧
      (makeTable pack root c).entry (hold % 2 ^ root) =
        ⟨BitVec.ofNat 8 t, BitVec.ofNat 8 root, BitVec.ofNat 16 offset⟩ ∧ offset < 2 ^ 16 ∧
      (makeTable pack root c).entry (offset + hold / 2 ^ root % 2 ^ t) =
        ⟨(pack p.2).1, BitVec.ofNat 8 (p.1.len - root), (pack p.2).2⟩ := by
  have h15 : ∀ q ∈ c, q.1.len ≤ 15 := fun q hq => (Codeword.wellFormed_iff.1 (hcw q hq)).2.1
  have hp15 := h15 p hp
  have hproot := ((Codeword.heads_iff_parts hlen.le hold).1 hph).1
  have hindex : revBits root (p.1.rootPart root) = hold % 2 ^ root := by
    rw [hproot, revBits_revBits]
  have hlink : p.1.rootPart root ∈ linkPrefixes root c :=
    mem_linkPrefixes.2 ⟨hproot ▸ revBits_lt _ _, p, hp, hlen, rfl⟩
  obtain ⟨offset, hfind, hle, hslots⟩ := subOffsets_spec (c := c) (pack := pack) hlink
    (fun q hq => (mem_linkPrefixes.1 hq).1)
    ((List.range (2 ^ root)).map (rootEntry pack root c (subOffsets root c (2 ^ root) (linkPrefixes root c))))
  rw [List.length_map, List.length_range, hindex] at hfind
  have hsize := hle.trans (makeTable_length_le h15 (by omega))
  have hpow : 2 ^ root ≤ 2 ^ 14 := Nat.pow_le_pow_right (by decide) (by omega)
  have hfits := (subWidth_le_iff root c (p.1.rootPart root) _).1 le_rfl p hp hlen rfl
  have hwidth := (subWidth_le_iff root c (p.1.rootPart root) 15).2 fun x hx _ _ => (Nat.sub_le _ _).trans (h15 x hx)
  have hpos := Nat.two_pow_pos (subWidth root c (p.1.rootPart root))
  refine ⟨subWidth root c (p.1.rootPart root), offset, by omega, hwidth, ?_, by omega, ?_⟩
  · rw [makeTable_entry_root (Nat.mod_lt _ (Nat.two_pow_pos _)), rootEntry,
      slotOf_root_eq_none hfree hp hph hcw hlen]
    dsimp only
    rw [hfind]
  · refine (hslots _ (Nat.mod_lt _ hpos)).trans ?_
    rw [slotOf_subCode hfree hp hph hlen le_rfl, Option.getD_some]

end

/-! ### Decoding -/

theorem Table.held_of_entry {t : Table} {q : BitStream} {e : TableEntry}
    (he : t.entry (q.hold.toNat % 2 ^ t.root) = e) (hlink : e.isLink = false) :
    t.held q = if e.bits.toNat ≤ q.bits then some (e, e.bits.toNat) else none := by
  simp only [Table.held, BitStream.peekBits, he, hlink, Bool.false_eq_true, if_false]
  by_cases hheld : e.bits.toNat ≤ q.bits
  · simp [hheld]
  · simp [hheld, Nat.lt_of_not_le hheld]

theorem Table.held_of_link {t : Table} {q : BitStream} {e sub : TableEntry}
    (he : t.entry (q.hold.toNat % 2 ^ t.root) = e) (hlink : e.isLink = true)
    (hsub : t.entry (e.val.toNat + q.hold.toNat / 2 ^ e.bits.toNat % 2 ^ e.op.toNat) = sub) :
    t.held q =
      if e.bits.toNat + sub.bits.toNat ≤ q.bits then some (sub, e.bits.toNat + sub.bits.toNat) else none := by
  simp only [Table.held, BitStream.peekBits, he, hlink, if_true, pow_add, Nat.mod_mul_right_div_self, hsub]
  by_cases hheld : e.bits.toNat + sub.bits.toNat ≤ q.bits
  · simp [hheld, (Nat.le_add_right _ _).trans hheld]
  · simp [hheld, Nat.lt_of_not_le hheld]

/-- The entry a table gives the bits held is the one the code gives them, of the same width (43_huffman.md R309). -/
def Table.HoldsAs (pack : ε → BitVec 8 × BitVec 16) (c : Code ε) (t : Table) : Prop :=
  ∀ q, ∃ (p : Codeword × ε) (e : TableEntry), e.op = (pack p.2).1 ∧ e.val = (pack p.2).2 ∧
    t.held q = (if p.1.len ≤ q.bits then some (e, p.1.len) else none) ∧
    c.held q = if p.1.len ≤ q.bits then some p else none

/-- A table conforms when it agrees with the code on what is held (43_huffman.md R309). -/
theorem Table.HoldsAs.peek_eq {t : Table} (h : t.HoldsAs pack c) (q : BitStream) :
    t.peek q = (decodePeek c q).packed pack := by
  suffices hfrom : ∀ input q, t.peekFrom input q = (Sys2Proof.peekFrom c input q).packed pack from hfrom _ q
  intro input
  induction input with
  | nil =>
    intro q
    obtain ⟨p, e, hop, hval, ht, hc⟩ := h q
    rw [Table.peekFrom, Sys2Proof.peekFrom, ht, hc]
    by_cases hheld : p.1.len ≤ q.bits
    · simp [hheld, Peek.packed, hop, hval]
    · simp [hheld, Peek.packed]
  | cons b rest ih =>
    intro q
    obtain ⟨p, e, hop, hval, ht, hc⟩ := h q
    rw [Table.peekFrom, Sys2Proof.peekFrom, ht, hc]
    by_cases hheld : p.1.len ≤ q.bits
    · simp [hheld, Peek.packed, hop, hval]
    · by_cases hfull : 24 < q.bits
      · simp [hheld, hfull, Peek.packed]
      · simp [hheld, hfull, ih]

theorem makeTable_holdsAs (hpack : ∀ e bits val, (⟨(pack e).1, bits, val⟩ : TableEntry).isLink = false)
    (hfree : c.prefixFree) (hcw : ∀ p ∈ c, p.1.wellFormed = true) (hcov : c.covers) :
    (makeTable pack root c).HoldsAs pack c := by
  intro q
  obtain ⟨p, hp, hph, hheld⟩ := hcov.exists_held q
  have h15 := (Codeword.wellFormed_iff.1 (hcw p hp)).2.1
  obtain hlen | hlen := le_or_gt p.1.len root
  · have ht := Table.held_of_entry (makeTable_entry_of_le (pack := pack) hfree hp hph hcw hlen) (hpack ..)
    dsimp only at ht
    rw [TableEntry.width_toNat h15] at ht
    exact ⟨p, _, rfl, rfl, ht, hheld⟩
  · obtain ⟨t, offset, ht1, ht15, hlink, hoffset, hsub⟩ :=
      makeTable_entry_of_lt (pack := pack) hfree hp hph hcw hlen
    have ht := Table.held_of_link hlink (TableEntry.link_isLink ht1 ht15 _ _)
      (sub := ⟨(pack p.2).1, BitVec.ofNat 8 (p.1.len - root), (pack p.2).2⟩) (by
        dsimp only
        rwa [TableEntry.width_toNat ht15, TableEntry.width_toNat (by omega), BitVec.toNat_ofNat,
          Nat.mod_eq_of_lt hoffset])
    dsimp only at ht
    rw [TableEntry.width_toNat (by omega), TableEntry.width_toNat (by omega), Nat.add_sub_cancel' hlen.le] at ht
    exact ⟨p, _, rfl, rfl, ht, hheld⟩

/-- The table of a built code decodes as the code does, whatever the entries are packed to (43_huffman.md R309). -/
theorem makeTable_peek_of_buildCode
    (hpack : ∀ e bits val, (⟨(pack e).1, bits, val⟩ : TableEntry).isLink = false) {kind : CodeKind}
    {entry : Nat → ε} {invalid : ε} {lens : List Nat} (h : ∀ l ∈ lens, l ≤ 15)
    (hc : buildCode kind entry invalid lens = some c) (q : BitStream) :
    (makeTable pack root c).peek q = (decodePeek c q).packed pack := by
  obtain ⟨hfree, hcw⟩ := builtCodesArePrefixFree ε kind entry invalid lens c h hc
  exact (makeTable_holdsAs hpack hfree hcw (buildCode_covers hc)).peek_eq q

end

/-- Settles O11: a packed entry is never taken for a link, and so each table agrees with its code on what is held. -/
theorem tableDecodeConforms : Obligations.TableDecodeConforms :=
  ⟨fun _ _ _ _ q h hc _ _ _ => makeTable_peek_of_buildCode LlEntry.packed_isLink h hc q,
    fun _ _ _ _ q h hc _ _ _ => makeTable_peek_of_buildCode DistEntry.packed_isLink h hc q,
    fun _ _ _ _ q h hc _ _ _ => makeTable_peek_of_buildCode ClEntry.packed_isLink h hc q⟩

end Sys2Proof
end

section
/-! The copies of a match (44_symbols.md R355, R360, 45_window.md R408): a copy at distance `d` repeats the last `d` bytes with that period, which the three copy cases of the fast path write down directly. -/

namespace Sys2Proof.Machine

/-- What has just been written is the most recent history (45_window.md R406). -/
theorem hist_memWriteAll (d : Nat) (data : List Byte) (s : State) :
    hist d (memWriteAll data s) =
      if d ≤ data.length then data.getD (data.length - d) 0 else hist (d - data.length) s := by
  simp only [hist, memWriteAll_outBuf, memWriteAll_win, List.length_append]
  by_cases hnew : d ≤ data.length
  · rw [if_pos hnew, if_pos (by omega), List.getD_append_right _ _ _ _ (by omega)]
    congr 1
    omega
  by_cases hout : d ≤ s.outBuf.length + data.length
  · rw [if_neg hnew, if_pos hout, if_pos (by omega), List.getD_append _ _ _ _ (by omega)]
    congr 1
    omega
  · rw [if_neg hnew, if_neg hout, if_neg (by omega)]
    congr 1
    omega

/-- The last byte of a copy is written behind all the others. -/
theorem copyBack_succ (d n : Nat) (s : State) :
    copyBack d (n + 1) s = memWrite (hist d (copyBack d n s)) (copyBack d n s) := by
  induction n generalizing s with
  | zero => rfl
  | succ n ih => exact ih (memWrite (hist d s) s)

/-- The first `len` bytes of the history at distance `d`, repeated with the period `d` (45_window.md R408). -/
def periodicBytes (d len : Nat) (s : State) : List Byte := (List.range len).map fun k => hist (d - k % d) s

@[simp] theorem periodicBytes_length (d len : Nat) (s : State) : (periodicBytes d len s).length = len := by
  simp [periodicBytes]

theorem periodicBytes_succ (d n : Nat) (s : State) :
    periodicBytes d (n + 1) s = periodicBytes d n s ++ [hist (d - n % d) s] := by
  simp [periodicBytes, List.range_succ]

theorem periodicBytes_getD {d len k : Nat} (hk : k < len) (s : State) :
    (periodicBytes d len s).getD k 0 = hist (d - k % d) s := by
  simp [periodicBytes, hk]

/-- The byte at distance `d` behind `n` bytes of the period is the period's next byte. -/
theorem hist_periodicBytes {d : Nat} (hd : 1 ≤ d) (n : Nat) (s : State) :
    hist d (memWriteAll (periodicBytes d n s) s) = hist (d - n % d) s := by
  rw [hist_memWriteAll, periodicBytes_length]
  by_cases hn : d ≤ n
  · rw [if_pos hn, periodicBytes_getD (by omega), Nat.mod_eq_sub_mod hn]
  · rw [if_neg hn, Nat.mod_eq_of_lt (by omega)]

/-- A byte-by-byte copy writes the bytes of the period (45_window.md R408). -/
theorem copyBack_eq_periodicBytes {d : Nat} (hd : 1 ≤ d) (len : Nat) (s : State) :
    copyBack d len s = memWriteAll (periodicBytes d len s) s := by
  induction len with
  | zero => rfl
  | succ n ih => rw [copyBack_succ, ih, hist_periodicBytes hd, periodicBytes_succ, memWriteAll_append]; rfl

/-- The history inside the output of the call. -/
theorem hist_of_le {d : Nat} {s : State} (h : d ≤ s.outBuf.length) :
    hist d s = s.outBuf.getD (s.outBuf.length - d) 0 := if_pos h

/-- The history before the output of the call. -/
theorem hist_of_lt {d : Nat} {s : State} (h : s.outBuf.length < d) : hist d s = s.win.back (d - s.outBuf.length) :=
  if_neg (by omega)

/-- The window byte `k` places after the one `n` positions back. -/
theorem Window.back_sub {n k : Nat} (h : k ≤ n) (w : Window) :
    w.back (n - k) = Memory.read w.ram (((w.wnext : Int) - (n : Int) + (k : Int)) % (w.wsize : Int)).toNat := by
  rw [Window.back, Nat.cast_sub h, sub_sub_eq_add_sub, add_sub_right_comm]

/-- Case (b) of `copyCases` numbers its bytes by integers. -/
theorem map_intCast_range (f : Int → Byte) (n : Nat) :
    (List.range n >>= fun k => pure (k : Int)).map f = (List.range n).map fun k : Nat => f k :=
  (congrArg (List.map f) (List.flatMap_pure_eq_map _ _)).trans List.map_map

/-- Each copy case reads the bytes of the period where they lie (44_symbols.md R360). -/
theorem copyCases_eq_periodicBytes {dist : Nat} (hd : 1 ≤ dist) (len : Nat) (s : State) :
    copyCases dist len s = periodicBytes dist len s := by
  have hmod : ∀ k, k % dist < dist := fun k => Nat.mod_lt k hd
  unfold copyCases periodicBytes
  dsimp only
  split
  · refine List.map_congr_left fun k _ => ?_
    have hk := hmod k
    rw [hist_of_le (by omega)]
    congr 1
    omega
  split
  · rw [map_intCast_range]
    refine List.map_congr_left fun k hk => ?_
    rw [List.mem_range] at hk
    rw [Nat.mod_eq_of_lt (by omega), hist_of_lt (by omega), Nat.sub_right_comm, Window.back_sub (by omega)]
  · refine List.map_congr_left fun k _ => ?_
    have hk := hmod k
    split
    · rw [hist_of_lt (by omega), Nat.sub_right_comm, Window.back_sub (by omega), Int.natCast_mod]
    · rw [hist_of_le (by omega)]
      congr 1
      omega

/-- Settles O32: both are the bytes of the period. -/
theorem copyCasesAgree : Obligations.CopyCasesAgree := fun _ len s hd _ => by
  rw [copyBack_eq_periodicBytes hd, copyCases_eq_periodicBytes hd]

end Sys2Proof.Machine
end

section
/-! What the symbol elements write (44_symbols.md R350 to R356). -/

namespace Sys2Proof.Machine

/-! ### Literals, the end of a block, and the invalid codewords -/

theorem execLiteral_of_space {s : State} (h : 0 < s.left) (cw : Codeword) (v : Byte) :
    exec (.literal cw v) s = .next ((memWrite v { s with length := v.toNat }).goto .len) := by
  have hlit : ¬{ s with length := v.toNat, mode := .lit }.left = 0 := by simpa using Nat.ne_of_gt h
  refine congrArg _ ((if_neg hlit).trans ?_)
  rw [BitVec.ofNat_toNat, BitVec.setWidth_eq]
  rfl

/-- Settles O27: the parked literal is written or waits by `litRule`. -/
theorem literalAndInvalidResults : Obligations.LiteralAndInvalidResults := fun cw v _ =>
  ⟨fun hspace => execLiteral_of_space hspace cw v, fun hfull => congrArg _ (if_pos hfull), rfl, rfl, rfl⟩

/-! ### Lengths -/

/-- A length element, whatever its symbol (44_symbols.md R351, R352). -/
theorem lengthElement_eq (k : Fin 29) (x : Nat) (s : State) :
    lengthElement k x s = { s with
      length := lengthBase k + x, extra := lengthExtra k, src := s.src.drop (lengthExtra k), mode := .dist } := rfl

/-- A length symbol without extra bits drops nothing. -/
theorem lengthElement_plain {k : Fin 29} (h : lengthExtra k = 0) (s : State) :
    lengthElement k 0 s = { s with length := lengthBase k, extra := 0, mode := .dist } := by
  rw [lengthElement_eq, h, BitStream.drop_zero, Nat.add_zero]

/-- Settles O28: the row of each symbol is `lengthElement` at its base and its extra bits. -/
theorem lengthSymbolResults : Obligations.LengthSymbolResults := by
  intro cw x1 x2 x3 x4 x5 s
  have plain (k : Fin 29) (h : lengthExtra k = 0) :
      (.next (lengthElement k 0 s) : Result) = .next { s with length := lengthBase k, extra := 0, mode := .dist } :=
    congrArg _ (lengthElement_plain h s)
  exact ⟨plain 0 rfl, plain 1 rfl, plain 2 rfl, plain 3 rfl, plain 4 rfl, plain 5 rfl, plain 6 rfl, plain 7 rfl,
    rfl, rfl, rfl, rfl, rfl, rfl, rfl, rfl, rfl, rfl, rfl, rfl, rfl, rfl, rfl, rfl, rfl, rfl, rfl, rfl, plain 28 rfl⟩

/-! ### Distances and matches -/

/-- A distance element, whatever its symbol: no symbol's distance exceeds DMAX (44_symbols.md R353, R354). -/
theorem distanceElement_eq {k : Fin 30} {x : Nat} (hx : x < 2 ^ distanceExtra k) (s : State) :
    distanceElement k x s = matchRule { s with
      offset := distanceBase k + x, extra := distanceExtra k, src := s.src.drop (distanceExtra k), mode := .matched } := by
  have hbase := distanceBase_bounds k
  exact if_neg (show ¬Config.dMax < distanceBase k + x by omega)

/-- A distance symbol without extra bits drops nothing. -/
theorem distanceElement_plain {k : Fin 30} (h : distanceExtra k = 0) (s : State) :
    distanceElement k 0 s = matchRule { s with offset := distanceBase k, extra := 0, mode := .matched } := by
  rw [distanceElement_eq (by simp [h]), h, BitStream.drop_zero, Nat.add_zero]

/-- Settles O29: the row of each symbol is `distanceElement` at its base and its extra bits. -/
theorem distanceSymbolResults : Obligations.DistanceSymbolResults := by
  intro cw x1 x2 x3 x4 x5 x6 x7 x8 x9 x10 x11 x12 x13 s
  have plain (k : Fin 30) (h : distanceExtra k = 0) :
      (.next (distanceElement k 0 s) : Result) =
        .next (matchRule { s with offset := distanceBase k, extra := 0, mode := .matched }) :=
    congrArg _ (distanceElement_plain h s)
  have row (k : Fin 30) (x : BitVec (distanceExtra k)) :
      (.next (distanceElement k x.toNat s) : Result) =
        .next (matchRule { s with
          offset := distanceBase k + x.toNat, extra := distanceExtra k, src := s.src.drop (distanceExtra k)
          mode := .matched }) := congrArg _ (distanceElement_eq x.isLt s)
  exact ⟨plain 0 rfl, plain 1 rfl, plain 2 rfl, plain 3 rfl, row 4 x1, row 5 x1, row 6 x2, row 7 x2, row 8 x3,
    row 9 x3, row 10 x4, row 11 x4, row 12 x5, row 13 x5, row 14 x6, row 15 x6, row 16 x7, row 17 x7, row 18 x8,
    row 19 x8, row 20 x9, row 21 x9, row 22 x10, row 23 x10, row 24 x11, row 25 x11, row 26 x12, row 27 x12,
    row 28 x13, row 29 x13⟩

theorem matchRule_of_far {s : State} (h : 0 < s.left) (hfar : reach s < s.offset) : matchRule s = s.raise .e16 := by
  rw [matchRule, if_neg (by omega), if_pos hfar]

/-- Settles O31: MATCH tests the output space before the distance. -/
theorem matchStops : Obligations.MatchStops := fun _ => ⟨fun hfull => if_pos hfull, matchRule_of_far⟩

end Sys2Proof.Machine
end

section
/-! Whole bytes given back (44_symbols.md R359): the trimmed accumulator stands for the same stream, and a stream is held in one way only by accumulators with equally many bits. -/

namespace Sys2Proof

/-- The bytes of a number, low byte first, are its bits in stream order (20_memory.md R85). -/
theorem byteStream_bytesOf (v : U32) (lo n : Nat) :
    byteStream ((List.range n).map fun i => (v >>> (lo + 8 * i)).setWidth 8) = bitsLsb (8 * n) (v.toNat >>> lo) := by
  induction n with
  | zero => rfl
  | succ n ih =>
    rw [List.range_succ, List.map_append, byteStream_append, ih, Nat.mul_succ, bitsLsb_add, ← Nat.shiftRight_add]
    simp [bitsLsb_byte]

theorem byteStream_inj {as bs : List Byte} (h : byteStream as = byteStream bs) : as = bs := by
  obtain ⟨more, rfl, hmore⟩ := eq_append_of_byteStream_eq (h.trans (List.append_nil _).symm)
  have hlength := congrArg List.length hmore
  simpa using hlength

namespace BitStream

@[simp] theorem trim_bits (q : BitStream) : (Machine.trim q).bits = q.bits % 8 := rfl

@[simp] theorem trim_taken (q : BitStream) : (Machine.trim q).taken = q.taken - q.bits / 8 := rfl

theorem trim_input_length (q : BitStream) : (Machine.trim q).input.length = q.input.length + q.bits / 8 := by
  simp [Machine.trim, Nat.add_comm]

theorem trim_hold (q : BitStream) : (Machine.trim q).hold.toNat = q.hold.toNat % 2 ^ (q.bits % 8) :=
  Nat.mod_eq_of_lt ((Nat.mod_le _ _).trans_lt q.hold.isLt)

theorem trim_wf (q : BitStream) : (Machine.trim q).wf := by
  refine ⟨by rw [trim_bits]; omega, ?_⟩
  rw [trim_hold, trim_bits]
  exact Nat.mod_lt _ (Nat.two_pow_pos _)

/-- Trim loses no bit (44_symbols.md R359). -/
theorem trim_stream (q : BitStream) : (Machine.trim q).stream = q.stream := by
  have hheld : bitsLsb (q.bits % 8) (Machine.trim q).hold.toNat = bitsLsb (q.bits % 8) q.hold.toNat :=
    bitsLsb_congr (by rw [trim_hold, Nat.mod_mod])
  have hback := byteStream_bytesOf q.hold (q.bits % 8) (q.bits / 8)
  calc (Machine.trim q).stream
      = bitsLsb (q.bits % 8) q.hold.toNat ++
          (bitsLsb (8 * (q.bits / 8)) (q.hold.toNat >>> (q.bits % 8)) ++ byteStream q.input) := by
        rw [stream, trim_bits, hheld, ← hback, ← byteStream_append]; rfl
    _ = q.stream := by rw [← List.append_assoc, ← bitsLsb_add, Nat.mod_add_div, stream]

/-- A stream is held in one way only. -/
theorem eq_of_stream {q q' : BitStream} (hq : q.wf) (hq' : q'.wf) (hbits : q.bits = q'.bits)
    (htaken : q.taken = q'.taken) (hstream : q.stream = q'.stream) : q = q' := by
  obtain ⟨hold, bits, input, taken⟩ := q
  obtain ⟨hold', bits', input', taken'⟩ := q'
  obtain rfl : bits = bits' := hbits
  obtain rfl : taken = taken' := htaken
  obtain ⟨hheld, hinput⟩ := List.append_inj hstream (by simp)
  obtain rfl := byteStream_inj hinput
  obtain rfl := BitVec.eq_of_toNat_eq (bitsLsb_inj hq.2 hq'.2 hheld)
  rfl

end BitStream

/-- Settles O56: the bits given back are the bytes of the accumulator above those kept. -/
theorem trimReturnsWholeBytes : Obligations.TrimReturnsWholeBytes := fun q _ htaken =>
  ⟨Nat.le_of_lt_succ (Nat.mod_lt _ (by decide)), q.trim_wf, q.trim_stream, Nat.sub_add_cancel htaken,
    q.trim_input_length⟩

end Sys2Proof
end

section
/-! The fast path (44_symbols.md R357 to R361): it holds the bits the slow path holds, and bytes pulled ahead. One iteration does what one slow step does, or two for a length with its distance, and the trim gives back what was pulled ahead. -/

namespace Sys2Proof

/-! ### Bytes pulled ahead -/

namespace BitStream

theorem Pulls.wf {q q' : BitStream} (h : q.Pulls q') (hq : q.wf) : q'.wf := by
  induction h with
  | refl => exact hq
  | pull _ hb _ ih => exact ih (pullByte_wf hq hb _ _)

/-- Each byte pulled is counted. -/
theorem Pulls.taken {q q' : BitStream} (h : q.Pulls q') : q'.bits + 8 * q.taken = q.bits + 8 * q'.taken := by
  induction h with
  | refl => rfl
  | pull _ _ _ ih => simp only [pullByte_bits, pullByte_taken] at ih; omega

/-- Bits held before a pull may as well be dropped before it. -/
theorem pullByte_drop {q : BitStream} {b : Byte} {rest : List Byte} {n : Nat} (hq : q.wf) (hi : q.input = b :: rest)
    (hb : q.bits ≤ 24) (hn : n ≤ q.bits) : (q.pullByte b rest).drop n = (q.drop n).pullByte b rest := by
  have hbits : (q.drop n).bits ≤ 24 := (Nat.sub_le _ _).trans hb
  refine eq_of_stream (drop_wf (pullByte_wf hq hb b rest) n) (pullByte_wf (drop_wf hq n) hbits b rest) ?_ rfl ?_
  · exact Nat.sub_add_comm hn
  · have hpull := (Pulls.pull hi hb (.refl _)).stream hq
    have hdrop := (Pulls.pull (q := q.drop n) hi hbits (.refl _)).stream (drop_wf hq n)
    rw [drop_stream (Nat.le_add_right_of_le hn), hpull, hdrop, drop_stream hn]

theorem Pulls.drop {q q' : BitStream} (h : q.Pulls q') (hq : q.wf) {n : Nat} (hn : n ≤ q.bits) :
    (q.drop n).Pulls (q'.drop n) := by
  induction h with
  | refl => exact .refl _
  | pull hi hb _ ih =>
    have hrest := ih (pullByte_wf hq hb _ _) (Nat.le_add_right_of_le hn)
    rw [pullByte_drop hq hi hb hn] at hrest
    exact .pull hi ((Nat.sub_le _ _).trans hb) hrest

/-- NEED holds its bits no later than any pulls that hold them (40_bitstream.md R162). -/
theorem Pulls.need {q q' : BitStream} (h : q.Pulls q') {n : Nat} (hn : n ≤ q'.bits) :
    ∃ p, q.need n = .held p ∧ p.Pulls q' ∧ n ≤ p.bits ∧ (p = q ∨ p.bits < n + 8) := by
  induction h with
  | refl => exact ⟨_, need_of_le hn, .refl _, hn, .inl rfl⟩
  | @pull q q' b rest hi hb h ih =>
    by_cases hheld : n ≤ q.bits
    · exact ⟨q, need_of_le hheld, .pull hi hb h, hheld, .inl rfl⟩
    obtain ⟨p, hneed, hp, hle, hlt⟩ := ih hn
    refine ⟨p, ?_, hp, hle, .inr ?_⟩
    · rw [BitStream.need, hi, needFrom, if_neg hheld, if_neg (by omega)]
      exact hneed
    · obtain rfl | hlt := hlt
      · rw [pullByte_bits]; omega
      · exact hlt

end BitStream

/-- DecodePeek finds a codeword no later than any pulls that hold it (43_huffman.md R315). -/
theorem decodePeek_of_pulls {ε : Type} {c : Code ε} {q q' : BitStream} {cw : Codeword} {e : ε} (h : q.Pulls q')
    (hheld : c.held q' = some (cw, e)) : ∃ p, decodePeek c q = .found cw e p ∧ p.Pulls q' := by
  induction h with
  | refl q => exact ⟨q, peekFrom_of_held _ hheld, .refl q⟩
  | @pull q q' b rest hi hb h ih =>
    cases hq : c.held q with
    | some r =>
      have hr := Code.held_of_pulls hq (.pull hi hb h)
      obtain rfl : r = (cw, e) := Option.some.inj (hr.symm.trans hheld)
      exact ⟨q, peekFrom_of_held _ hq, .pull hi hb h⟩
    | none =>
      obtain ⟨p, hpeek, hp⟩ := ih hheld
      refine ⟨p, ?_, hp⟩
      rw [decodePeek, hi, peekFrom, hq]
      exact (if_neg (by omega)).trans hpeek

namespace BitStream

/-- The slow path's accumulator `q` at the end of an element, where the fast path's is `q'` (40_bitstream.md R168). -/
structure Behind (q q' : BitStream) : Prop where
  wf : q.wf
  bits : q.bits ≤ 7
  pulls : q.Pulls q'

/-- Trim gives back what was pulled ahead (44_symbols.md R359). -/
theorem Behind.trim_eq {q q' : BitStream} (h : q.Behind q') : Machine.trim q' = q := by
  have hbits := h.bits
  have hle := h.pulls.bits_le
  have htaken := h.pulls.taken
  refine eq_of_stream q'.trim_wf h.wf ?_ ?_ (q'.trim_stream.trans (h.pulls.stream h.wf))
  · rw [trim_bits]; omega
  · rw [trim_taken]; omega

/-! ### What the fast path pulls -/

theorem fastPull_pulls {q : BitStream} (hb : q.bits ≤ 24) : q.Pulls (Machine.fastPull q) := by
  unfold Machine.fastPull
  split
  · exact .refl q
  · next hi => exact .pull hi hb (.refl _)

@[simp] theorem fastPull_stream_length (q : BitStream) : (Machine.fastPull q).stream.length = q.stream.length := by
  unfold Machine.fastPull
  split
  · rfl
  · next hi => simp only [stream_length, pullByte_bits, pullByte_input, hi, List.length_cons]; omega

/-- A pull adds a byte, as long as the stream has one. -/
theorem fastPull_bits (q : BitStream) : (Machine.fastPull q).bits = min (q.bits + 8) q.stream.length := by
  unfold Machine.fastPull
  split
  · next hi => simp [stream_length, hi]
  · next hi => simp only [stream_length, pullByte_bits, hi, List.length_cons]; omega

theorem fastRefill_pulls (q : BitStream) : q.Pulls (Machine.fastRefill q) := by
  unfold Machine.fastRefill Config.fastRefill
  split
  · have hbits := q.fastPull_bits
    exact (fastPull_pulls (by omega)).trans (fastPull_pulls (by omega))
  · exact .refl q

@[simp] theorem fastRefill_stream_length (q : BitStream) :
    (Machine.fastRefill q).stream.length = q.stream.length := by
  unfold Machine.fastRefill
  split <;> simp

theorem fastRefill_bits {q : BitStream} (h : 15 ≤ q.stream.length) : 15 ≤ (Machine.fastRefill q).bits := by
  unfold Machine.fastRefill Config.fastRefill
  split
  · simp only [fastPull_bits, fastPull_stream_length]; omega
  · omega

theorem fastExtra_pulls {e : Nat} (he : e ≤ 13) (q : BitStream) : q.Pulls (Machine.fastExtra e q) := by
  have hmore (p : BitStream) : p.Pulls (if p.bits < e then Machine.fastPull p else p) := by
    split
    · exact fastPull_pulls (by omega)
    · exact .refl p
  exact (hmore q).trans (hmore _)

@[simp] theorem fastExtra_stream_length (e : Nat) (q : BitStream) :
    (Machine.fastExtra e q).stream.length = q.stream.length := by
  have hmore (p : BitStream) : (if p.bits < e then Machine.fastPull p else p).stream.length = p.stream.length := by
    split <;> simp
  exact (hmore _).trans (hmore q)

theorem fastExtra_bits {e : Nat} {q : BitStream} (he : e ≤ 13) (h : e ≤ q.stream.length) :
    e ≤ (Machine.fastExtra e q).bits := by
  have hone := q.fastPull_bits
  have htwo := (Machine.fastPull q).fastPull_bits
  rw [fastPull_stream_length] at htwo
  unfold Machine.fastExtra
  dsimp only
  split
  · split <;> omega
  · omega

theorem le_drop_stream_length (n : Nat) (q : BitStream) : q.stream.length ≤ (q.drop n).stream.length + n := by
  simp only [stream_length, drop_bits, drop_input]
  omega

/-- The bits of an extra field, read on both paths (44_symbols.md R352, R354, R358). -/
theorem Behind.extra {q q' : BitStream} (h : q.Behind q') {e : Nat} (he : e ≤ 13) (hlen : e ≤ q'.stream.length) :
    ∃ p, q.need e = .held p ∧ (Machine.fastExtra e q').peekBits e = p.peekBits e ∧
      (p.drop e).Behind ((Machine.fastExtra e q').drop e) := by
  obtain ⟨p, hneed, hp, hle, hlt⟩ := (h.pulls.trans (fastExtra_pulls he q')).need (fastExtra_bits he hlen)
  have hwf : p.wf := (need_pulls (.inl hneed)).wf h.wf
  refine ⟨p, hneed, hp.hold_low hle, drop_wf hwf e, ?_, hp.drop hwf hle⟩
  have hbits := h.bits
  rw [drop_bits]
  obtain rfl | hlt := hlt <;> omega

/-- A codeword, read on both paths (44_symbols.md R350, R353, R358). -/
theorem Pulls.codeword {ε : Type} {c : Code ε} (hc : c.covers) {q q' : BitStream} (h : q.Pulls q') (hq : q.wf)
    (hb : q.bits ≤ 7 ∨ c.held q = none) (hlen : 15 ≤ q'.stream.length) :
    ∃ cw e p, cw.len ≤ 15 ∧ c.held (Machine.fastRefill q') = some (cw, e) ∧ decodePeek c q = .found cw e p ∧
      (p.drop cw.len).Behind ((Machine.fastRefill q').drop cw.len) := by
  obtain ⟨⟨cw, e⟩, hheld⟩ := Option.ne_none_iff_exists'.1 (hc.held (fastRefill_bits hlen))
  obtain ⟨p, hpeek, hp⟩ := decodePeek_of_pulls (h.trans q'.fastRefill_pulls) hheld
  obtain ⟨p', cw', e', hpeek', hheld', hfound⟩ | ⟨p', hpeek', -⟩ := Machine.decodePeek_of_covers hc q
  · cases hpeek.symm.trans hpeek'
    have hwf : p.wf := (decodePeek_pulls (.inl ⟨cw, e, hpeek⟩)).wf hq
    have hwidth := Code.held_width hheld'
    exact ⟨cw, e, p, hwidth.2.2, hheld, hpeek, drop_wf hwf _, Machine.bits_drop_found hb hheld' hfound,
      hp.drop hwf hwidth.2.1⟩
  · cases hpeek.symm.trans hpeek'

end BitStream

namespace Machine

/-! ### One iteration is a few slow steps -/

/-- The fast path's state where the slow path's is `s`: it may hold other bits and other scratch fields (`length`,
`offset`, `extra`; 44_symbols.md R357). -/
def State.ahead (q : BitStream) (scratch : Nat × Nat × Nat) (s : State) : State :=
  { s with src := q, length := scratch.1, offset := scratch.2.1, extra := scratch.2.2 }

/-- A slow-path state at the end of an element and the fast path's there. -/
def Matches (t u : State) : Prop := ∃ q scratch, u = t.ahead q scratch ∧ t.src.Behind q

/-- What the trim leaves is the slow path's state (44_symbols.md R357, R359). -/
theorem Matches.sameButScratch_trim {t u : State} (h : Matches t u) : sameButScratch t (u.mapSrc trim) := by
  obtain ⟨q, scratch, rfl, hq⟩ := h
  have hsrc : ((t.ahead q scratch).mapSrc trim).src = t.src := hq.trim_eq
  unfold sameButScratch
  rw [hsrc]
  rfl

/-- The mode loop is about to read a literal/length element of a block whose codes cover every pattern. -/
structure AtSymbol (s : State) : Prop where
  running : s.running = true
  mode : s.mode = .len
  codes : blockCodesCover s

/-- Some slow steps from `s` end an element where the fast path has come to `r`, and are about to read another if it
goes on. -/
def Follows (s : State) (r : Bool × State) : Prop :=
  ∃ n t, runSteps n s = some t ∧ t.running = true ∧ Matches t r.2 ∧ (r.1 = true → AtSymbol t)

theorem runSteps_of_step {s t : State} (h : step s = .next t) (n : Nat) : runSteps (n + 1) s = runSteps n t := by
  rw [runSteps, h]

theorem runSteps_add {m n : Nat} {s t : State} (h : runSteps m s = some t) : runSteps (m + n) s = runSteps n t := by
  induction m generalizing s with
  | zero => cases h; rw [Nat.zero_add]
  | succ m ih =>
    rw [runSteps] at h
    split at h
    · next u hu => rw [Nat.succ_add, runSteps_of_step hu, ih h]
    · cases h
    · cases h

theorem Follows.of_step {s t : State} {r : Bool × State} (h : step s = .next t) (hr : Follows t r) : Follows s r := by
  obtain ⟨n, u, hn, hu⟩ := hr
  exact ⟨n + 1, u, (runSteps_of_step h n).trans hn, hu⟩

/-- One slow step is all there is. -/
theorem Follows.step {s t : State} {r : Bool × State} (h : step s = .next t) (hr : t.running = true)
    (hm : Matches t r.2) (hgo : r.1 = true → AtSymbol t) : Follows s r :=
  ⟨1, t, runSteps_of_step h 0, hr, hm, hgo⟩

theorem step_of_element {s : State} {ctx : Context} {i : Instr} {q : BitStream} (hr : s.running = true)
    (ha : action s = .read ctx) (hd : decode ctx s.src = .element i q) : step s = exec i { s with src := q } := by
  simp [step, hr, stepCall, ha, hd]

section

variable {s : State} {q : BitStream} {scratch : Nat × Nat × Nat}

/-- The step of LEN whose codeword is found (44_symbols.md R350). -/
theorem step_len (hr : s.running = true) {cw : Codeword} {e : LlEntry} {p p' : BitStream} {i : Instr}
    (hd : decodePeek s.lcode s.src = .found cw e p) (hi : decodeLlSymbol cw e (p.drop cw.len) = .element i p') :
    step (s.goto .len) = exec i { s.goto .len with src := p' } := by
  refine step_of_element hr rfl ?_
  simp only [decode, State.goto_src, State.goto_lcode, hd, hi]

/-- The step of DIST whose codeword is found (44_symbols.md R353). -/
theorem step_dist (hr : s.running = true) {cw : Codeword} {e : DistEntry} {p p' : BitStream} {i : Instr}
    (hd : decodePeek s.dcode s.src = .found cw e p) (hi : decodeDistSymbol cw e (p.drop cw.len) = .element i p') :
    step (s.goto .dist) = exec i { s.goto .dist with src := p' } := by
  refine step_of_element hr rfl ?_
  simp only [decode, State.goto_src, State.goto_dcode, hd, hi]

/-- An extra field that is held, decoded (44_symbols.md R352, R354). -/
theorem decodeExtra_held {e : Nat} {p : BitStream} (h : q.need e = .held p) (pending : Pending) (f : Nat → Instr) :
    decodeExtra e pending f q = .element (f (p.peekBits e)) p := by rw [decodeExtra, h]

/-- A length symbol's step (44_symbols.md R351, R352). -/
theorem step_length (hr : s.running = true) {cw : Codeword} {k : Fin 29} {p p' : BitStream}
    (hd : decodePeek s.lcode s.src = .found cw (.len k) p)
    (hneed : (p.drop cw.len).need (lengthExtra k) = .held p') :
    step (s.goto .len) = .next { s with
      length := lengthBase k + p'.peekBits (lengthExtra k), extra := lengthExtra k, src := p'.drop (lengthExtra k)
      mode := .dist } := by
  rw [step_len hr hd (decodeExtra_held hneed _ _), exec_lengthInstr, lengthElement_eq, BitStream.peekBits, Nat.mod_mod]
  rfl

/-- A distance symbol's step (44_symbols.md R353, R354). -/
theorem step_distance (hr : s.running = true) {cw : Codeword} {k : Fin 30} {p p' : BitStream}
    (hd : decodePeek s.dcode s.src = .found cw (.dist k) p)
    (hneed : (p.drop cw.len).need (distanceExtra k) = .held p') :
    step (s.goto .dist) = .next (matchRule { s with
      offset := distanceBase k + p'.peekBits (distanceExtra k), extra := distanceExtra k
      src := p'.drop (distanceExtra k), mode := .matched }) := by
  have hx : p'.peekBits (distanceExtra k) < 2 ^ distanceExtra k := Nat.mod_lt _ (Nat.two_pow_pos _)
  rw [step_dist hr hd (decodeExtra_held hneed _ _), exec_distanceInstr, Nat.mod_eq_of_lt hx, distanceElement_eq hx]
  rfl

/-- A copy changes the output and its check only (45_window.md R408). -/
theorem copyBack_eq {d : Nat} (hd : 1 ≤ d) (len : Nat) (s : State) : copyBack d len s = { s with
    outBuf := s.outBuf ++ periodicBytes d len s, left := s.left - len
    check := if s.wrap = .none then s.check else dataUpdate s.fmt s.check (periodicBytes d len s) } := by
  rw [copyBack_eq_periodicBytes hd, memWriteAll_eq, periodicBytes_length]

/-- A match within the history that fits the output space (44_symbols.md R355). -/
theorem matchRule_of_space (hlength : 0 < s.length) (hspace : s.length ≤ s.left) (hoffset : 1 ≤ s.offset)
    (hnear : s.offset ≤ reach s) : matchRule s = { s with
      outBuf := s.outBuf ++ periodicBytes s.offset s.length s, left := s.left - s.length
      check := if s.wrap = .none then s.check else dataUpdate s.fmt s.check (periodicBytes s.offset s.length s)
      length := 0, mode := .len } := by
  rw [matchRule, if_neg (by omega), if_neg (by omega), Nat.min_eq_left hspace, Nat.sub_self, if_pos rfl,
    copyBack_eq hoffset]

/-- The distance half of an iteration whose codeword is held (44_symbols.md R358). -/
theorem fastDistance_ahead {cw : Codeword} {k : Fin 30} {x : Nat}
    (hheld : s.dcode.held (fastRefill q) = some (cw, .dist k))
    (hx : (fastExtra (distanceExtra k) ((fastRefill q).drop cw.len)).peekBits (distanceExtra k) = x) (len : Nat) :
    let s' := s.ahead ((fastExtra (distanceExtra k) ((fastRefill q).drop cw.len)).drop (distanceExtra k)) scratch
    fastDistance len (s.ahead q scratch) =
      if reach s < distanceBase k + x then (false, s'.raise .e16) else (true, copyBack (distanceBase k + x) len s') := by
  have hbase := distanceBase_bounds k
  have hlt : x < 2 ^ distanceExtra k := hx ▸ Nat.mod_lt _ (Nat.two_pow_pos _)
  have hfar : Config.dMax < distanceBase k + x ∨ reach s < distanceBase k + x ↔ reach s < distanceBase k + x :=
    or_iff_right (by omega)
  have hfast : ((s.ahead q scratch).mapSrc fastRefill).dcode.held ((s.ahead q scratch).mapSrc fastRefill).src =
    some (cw, .dist k) := hheld
  subst hx
  simp only [fastDistance, hfast]
  exact if_congr hfar rfl rfl

/-- The distance half of an iteration is the slow step of DIST (44_symbols.md R353 to R355, R358). -/
theorem fastDistance_follows (hr : s.running = true) (hc : blockCodesCover s) (hq : s.src.Behind q)
    (hstream : 28 ≤ q.stream.length) (hlength : 3 ≤ s.length ∧ s.length ≤ 258) (hspace : 258 ≤ s.left) :
    Follows (s.goto .dist) (fastDistance s.length ((s.goto .len).ahead q scratch)) := by
  obtain ⟨cw, e, p, hcw, hheld, hpeek, hdrop⟩ := hq.pulls.codeword hc.2 hq.wf (.inl hq.bits) (by omega)
  have hlen := (fastRefill q).le_drop_stream_length cw.len
  rw [BitStream.fastRefill_stream_length] at hlen
  cases e with
  | invalid =>
    have hfast : (((s.goto .len).ahead q scratch).mapSrc fastRefill).dcode.held
      (((s.goto .len).ahead q scratch).mapSrc fastRefill).src = some (cw, .invalid) := hheld
    simp only [fastDistance, hfast]
    exact .step (step_dist hr hpeek rfl) hr ⟨_, scratch, rfl, hdrop⟩ nofun
  | dist k =>
    have hbase := distanceBase_bounds k
    obtain ⟨p', hneed, hx, hend⟩ := hdrop.extra (distanceExtra_le k) (by have := distanceExtra_le k; omega)
    have hstep := step_distance hr hpeek hneed
    rw [fastDistance_ahead (s := s.goto .len) hheld hx]
    split
    · next hfar =>
      exact .step (hstep.trans (congrArg _ (matchRule_of_far (by dsimp only; omega) hfar))) hr
        ⟨_, scratch, rfl, hend⟩ nofun
    · next hnear =>
      have hcopy := matchRule_of_space (s := { s with
        offset := distanceBase k + p'.peekBits (distanceExtra k), extra := distanceExtra k
        src := p'.drop (distanceExtra k), mode := .matched }) (by dsimp only; omega) (by dsimp only; omega)
        (by dsimp only; omega) (not_lt.1 hnear)
      rw [copyBack_eq (by omega)]
      exact .step (hstep.trans (congrArg _ hcopy)) hr ⟨_, scratch, rfl, hend⟩ fun _ => ⟨hr, rfl, hc⟩

/-- An iteration is the slow step of LEN, and for a length that of DIST too (44_symbols.md R350 to R358). -/
theorem fastIteration_follows (hr : s.running = true) (hc : blockCodesCover s) (hwf : s.src.wf)
    (hpulls : s.src.Pulls q) (hb : s.src.bits ≤ 7 ∨ s.lcode.held s.src = none) (hstream : 48 ≤ q.stream.length)
    (hspace : 258 ≤ s.left) : Follows (s.goto .len) (fastIteration ((s.goto .len).ahead q scratch)) := by
  obtain ⟨cw, e, p, hcw, hheld, hpeek, hdrop⟩ := hpulls.codeword hc.1 hwf hb (by omega)
  have hfast : (((s.goto .len).ahead q scratch).mapSrc fastRefill).lcode.held
    (((s.goto .len).ahead q scratch).mapSrc fastRefill).src = some (cw, e) := hheld
  cases e with
  | lit v =>
    simp only [fastIteration, hfast]
    have hlit := execLiteral_of_space (s := { s.goto .len with src := p.drop cw.len })
      (show 0 < s.left by omega) cw v
    exact .step ((step_len hr hpeek rfl).trans hlit) hr ⟨_, scratch, rfl, hdrop⟩ fun _ => ⟨hr, rfl, hc⟩
  | eob =>
    simp only [fastIteration, hfast]
    exact .step (step_len hr hpeek rfl) hr ⟨_, scratch, rfl, hdrop⟩ nofun
  | invalid =>
    simp only [fastIteration, hfast]
    exact .step (step_len hr hpeek rfl) hr ⟨_, scratch, rfl, hdrop⟩ nofun
  | len k =>
    have hextra := lengthExtra_le k
    have hbase := lengthBase_bounds k
    have hlen := (fastRefill q).le_drop_stream_length cw.len
    rw [BitStream.fastRefill_stream_length] at hlen
    obtain ⟨p', hneed, hx, hend⟩ := hdrop.extra (hextra.trans (by decide)) (by omega)
    have hlt : p'.peekBits (lengthExtra k) < 2 ^ lengthExtra k := Nat.mod_lt _ (Nat.two_pow_pos _)
    have hlen' := (fastExtra (lengthExtra k) ((fastRefill q).drop cw.len)).le_drop_stream_length (lengthExtra k)
    rw [BitStream.fastExtra_stream_length] at hlen'
    have hdist := fastDistance_follows (scratch := scratch)
      (s := { s with
        length := lengthBase k + p'.peekBits (lengthExtra k), extra := lengthExtra k, src := p'.drop (lengthExtra k) })
      hr hc hend (by omega) (by dsimp only; omega) hspace
    refine .of_step (step_length hr hpeek hneed) ?_
    simp only [fastIteration, hfast]
    rw [← hx] at hdist ⊢
    exact hdist

end

/-! ### The loop -/

/-- The slack in numbers (44_symbols.md R350, R361). -/
theorem fastSlack_iff (s : State) : fastSlack s = true ↔ 6 ≤ s.src.input.length ∧ 258 ≤ s.left := by
  rw [fastSlack, Bool.and_eq_true, decide_eq_true_iff, decide_eq_true_iff]
  rfl

/-- Slow steps from `s` come to the end of an element, where the fast path's state is `u`. -/
def ComesTo (s u : State) : Prop := ∃ n t, runSteps n s = some t ∧ t.running = true ∧ Matches t u

/-- A loop that starts with an iteration follows the slow path if the rest of the loop does. -/
theorem fastLoop_succ_comesTo {n : Nat} {s : State} {q : BitStream} {scratch : Nat × Nat × Nat}
    (hrest : ∀ t u, AtSymbol t → Matches t u → fastSlack u = true → ComesTo t (fastLoop n u)) (hs : AtSymbol s)
    (hwf : s.src.wf) (hpulls : s.src.Pulls q) (hb : s.src.bits ≤ 7 ∨ s.lcode.held s.src = none)
    (hslack : fastSlack (s.ahead q scratch) = true) : ComesTo s (fastLoop (n + 1) (s.ahead q scratch)) := by
  obtain ⟨hinput, hspace⟩ := (fastSlack_iff _).1 hslack
  have hstream : 48 ≤ q.stream.length := by
    have hq : 6 ≤ q.input.length := hinput
    rw [BitStream.stream_length]
    omega
  have hfollows := fastIteration_follows (scratch := scratch) hs.running hs.codes hwf hpulls hb hstream hspace
  rw [show s.goto .len = s from hs.mode ▸ rfl] at hfollows
  obtain ⟨m, t, hsteps, hrunning, hmatch, hgo⟩ := hfollows
  rw [fastLoop]
  split
  · next u hu =>
    rw [hu] at hmatch
    exact ⟨m, t, hsteps, hrunning, hmatch⟩
  · next u hu =>
    rw [hu] at hmatch hgo
    split
    · next hmore =>
      obtain ⟨l, v, hsteps', hv⟩ := hrest t u (hgo rfl) hmatch hmore
      exact ⟨m + l, v, (runSteps_add hsteps).trans hsteps', hv⟩
    · exact ⟨m, t, hsteps, hrunning, hmatch⟩

theorem fastLoop_comesTo (n : Nat) {t u : State} (ht : AtSymbol t) (hmatch : Matches t u)
    (hslack : fastSlack u = true) :
    ComesTo t (fastLoop n u) := by
  induction n generalizing t u with
  | zero => exact ⟨0, t, rfl, ht.running, hmatch⟩
  | succ n ih =>
    obtain ⟨q, scratch, rfl, hq⟩ := hmatch
    exact fastLoop_succ_comesTo (fun _ _ => ih) ht hq.wf hq.pulls (.inl hq.bits) hslack

/-- Settles O55: the loop follows the slow path element by element, and the trim gives back what it pulled ahead. -/
theorem fastPathRefinesTheSlowPath : Obligations.FastPathRefinesTheSlowPath := by
  intro s hsafe hr hm hslack
  have hb : s.src.bits ≤ 7 ∨ s.lcode.held s.src = none := by simpa [bitsBound, hm] using hsafe.decode.bits
  have hc : blockCodesCover s := by simpa [codesBound, blockCodesCover, hm] using hsafe.decode.codes
  obtain ⟨n, hn⟩ : ∃ n, s.left = n + 1 := ⟨s.left - 1, by have := ((fastSlack_iff s).1 hslack).2; omega⟩
  obtain ⟨m, t, hsteps, hrunning, hmatch⟩ := fastLoop_succ_comesTo (scratch := (s.length, s.offset, s.extra))
    (fun _ _ => fastLoop_comesTo n) ⟨hr, hm, hc⟩ hsafe.accumulator (.refl _) hb hslack
  refine ⟨m, t, hsteps, hrunning, ?_⟩
  rw [fastPath, hn]
  exact hmatch.sameButScratch_trim

end Machine

end Sys2Proof
end

section
/-! A match (44_symbols.md R355, 45_window.md R408) writes the bytes of its period, as many as the output has space for. -/

namespace Sys2Proof.Machine

theorem matchRule_of_near {s : State} (hleft : 0 < s.left) (hd : 1 ≤ s.offset) (hnear : s.offset ≤ reach s) :
    matchRule s = { memWriteAll (periodicBytes s.offset (min s.length s.left) s) s with
      length := s.length - min s.length s.left
      mode := if s.length - min s.length s.left = 0 then .len else s.mode } := by
  rw [matchRule, if_neg (Nat.ne_of_gt hleft), if_neg (Nat.not_lt.2 hnear), copyBack_eq_periodicBytes hd]

/-- Settles O30: a match is complete when it has copied as many bytes as were left of it. -/
theorem matchCopiesWithThePeriod : Obligations.MatchCopiesWithThePeriod := by
  refine ⟨fun d len s hd _ => copyBack_eq_periodicBytes hd len s, fun s hleft hd hnear => ?_⟩
  have hcomplete : s.length - min s.length s.left = 0 ↔ min s.length s.left = s.length := by omega
  rw [matchRule_of_near hleft hd hnear, memWriteAll_eq, periodicBytes_length]
  simp only [hcomplete]
  rfl

end Sys2Proof.Machine
end

section
/-! The sliding window (45_window.md R403 to R406): an update writes its last bytes at consecutive positions of the ring, so the window reads back the most recent history. -/

namespace Sys2Proof.Machine

/-! ### The update of the ring -/

/-- An update fills the window, or writes one run up to its end, or two runs around its end (45_window.md R403). -/
theorem Window.append_cases {w : Window} (hn : w.wnext < w.wsize) (data : List Byte) :
    (w.wsize ≤ data.length ∧
      w.append data = ⟨Memory.write w.ram 0 (data.drop (data.length - w.wsize)), w.wsize, w.wsize, 0⟩) ∨
    (data.length < w.wsize ∧ w.wnext + data.length ≤ w.wsize ∧
      w.append data = ⟨Memory.write w.ram w.wnext data, w.wsize,
        if w.whave < w.wsize then w.whave + data.length else w.whave,
        if w.wnext + data.length = w.wsize then 0 else w.wnext + data.length⟩) ∨
    (data.length < w.wsize ∧ w.wsize < w.wnext + data.length ∧
      w.append data =
        ⟨Memory.write (Memory.write w.ram w.wnext (data.take (w.wsize - w.wnext))) 0 (data.drop (w.wsize - w.wnext)),
          w.wsize, w.wsize, data.length - (w.wsize - w.wnext)⟩) := by
  unfold Window.append
  by_cases hfull : w.wsize ≤ data.length
  · exact .inl ⟨hfull, if_pos hfull⟩
  have hlt := Nat.lt_of_not_le hfull
  simp only [if_neg hfull]
  by_cases hfits : w.wnext + data.length ≤ w.wsize
  · refine .inr (.inl ⟨hlt, hfits, ?_⟩)
    simp [Nat.min_eq_right (Nat.le_sub_of_add_le' hfits)]
  · refine .inr (.inr ⟨hlt, Nat.lt_of_not_le hfits, ?_⟩)
    rw [Nat.min_eq_left (by omega), if_pos (by omega)]

/-- The position `k` places on in a ring (45_window.md R403): `k` more, less the size where that is past the end. -/
theorem ring_position {n k size : Nat} (hn : n < size) (hk : k < size) :
    (n + k) % size = if n + k < size then n + k else n + k - size := by
  split
  · next h => exact Nat.mod_eq_of_lt h
  · next h => rw [Nat.mod_eq_sub_mod (Nat.not_lt.1 h), Nat.mod_eq_of_lt (by omega)]

@[simp] theorem Window.append_wsize (w : Window) (data : List Byte) : (w.append data).wsize = w.wsize := by
  simp only [Window.append, apply_ite Window.wsize, ite_self]

/-- The write position moves on around the ring (45_window.md R403). -/
theorem Window.append_wnext {w : Window} (hn : w.wnext < w.wsize) (data : List Byte) :
    (w.append data).wnext = if w.wsize ≤ data.length then 0 else (w.wnext + data.length) % w.wsize := by
  obtain ⟨hfull, h⟩ | ⟨hlt, hfits, h⟩ | ⟨hlt, hwraps, h⟩ := w.append_cases hn data <;> rw [h]
  · rw [if_pos hfull]
  all_goals
    rw [if_neg (Nat.not_le.2 hlt), ring_position hn hlt]
    split_ifs <;> dsimp only <;> omega

/-- The window fills up and stays full (45_window.md R403). -/
theorem Window.append_whave {w : Window} (hn : w.wnext < w.wsize) (hh : w.whave ≤ w.wsize)
    (hf : w.whave < w.wsize → w.wnext = w.whave) (data : List Byte) :
    (w.append data).whave = min w.wsize (w.whave + data.length) := by
  obtain ⟨hfull, h⟩ | ⟨hlt, hfits, h⟩ | ⟨hlt, hwraps, h⟩ := w.append_cases hn data <;> rw [h] <;> dsimp only
  · omega
  · split <;> omega
  · omega

/-- Data shorter than the ring is stored in one or two runs (45_window.md R403). -/
theorem Window.writes_iff_of_lt {w : Window} (hn : w.wnext < w.wsize) {data : List Byte}
    (hlt : data.length < w.wsize) (a : Nat) :
    w.writes data a ↔
      w.wnext ≤ a ∧ a < w.wsize ∧ a < w.wnext + data.length ∨ a + w.wsize < w.wnext + data.length := by
  rw [Window.writes, if_neg (Nat.not_le.2 hlt)]
  constructor
  · rintro ⟨k, hk, rfl⟩
    rw [ring_position hn (hk.trans hlt)]
    split <;> omega
  · rintro (⟨hnext, hsize, hend⟩ | hend)
    · refine ⟨a - w.wnext, by omega, ?_⟩
      rw [ring_position hn (by omega)]
      split <;> omega
    · refine ⟨a + w.wsize - w.wnext, by omega, ?_⟩
      rw [ring_position hn (by omega)]
      split <;> omega

/-- An update stores to the addresses of `Window.writes` only (45_window.md R403). -/
theorem Window.read_append_outside {w : Window} (hn : w.wnext < w.wsize) {data : List Byte} {a : Nat}
    (ha : ¬w.writes data a) : Memory.read (w.append data).ram a = Memory.read w.ram a := by
  obtain ⟨hfull, h⟩ | ⟨hlt, hfits, h⟩ | ⟨hlt, hwraps, h⟩ := w.append_cases hn data <;> rw [h]
  · rw [Window.writes, if_pos hfull] at ha
    exact Memory.read_write_outside (by simp only [List.length_drop]; omega)
  · rw [w.writes_iff_of_lt hn hlt] at ha
    exact Memory.read_write_outside (by omega)
  · rw [w.writes_iff_of_lt hn hlt] at ha
    have hrest : a < 0 ∨ 0 + (data.drop (w.wsize - w.wnext)).length ≤ a := by
      rw [List.length_drop]
      omega
    have hend : a < w.wnext ∨ w.wnext + (data.take (w.wsize - w.wnext)).length ≤ a := by
      rw [List.length_take]
      omega
    exact (Memory.read_write_outside hrest).trans (Memory.read_write_outside hend)

/-- Settles O33: each of the three ways an update writes moves the pointers by one rule. -/
theorem windowUpdateWritesTheRing : Obligations.WindowUpdateWritesTheRing := fun w data hn hh hf =>
  ⟨w.append_wsize data, Window.append_wnext hn data, Window.append_whave hn hh hf data,
    fun _ ha => Window.read_append_outside hn ha⟩

/-! ### The history in the window -/

/-- Data that fills the window leaves its last bytes there, in order (45_window.md R403). -/
theorem Window.read_append_of_full {w : Window} {data : List Byte}
    (hfull : w.wsize ≤ data.length) {a : Nat} (ha : a < w.wsize) :
    Memory.read (w.append data).ram a = data.getD (data.length - w.wsize + a) 0 := by
  have happend : w.append data = _ := if_pos hfull
  have hlast : a < (data.drop (data.length - w.wsize)).length := by rw [List.length_drop]; omega
  rw [happend, List.getD_eq_getElem _ _ (by omega)]
  have hread := Memory.read_write_inside (m := w.ram) (a := 0) hlast
  rwa [Nat.zero_add, List.getElem_drop] at hread

/-- Byte `k` of data shorter than the ring lies `k` places after the write position (45_window.md R403). -/
theorem Window.read_append_of_lt {w : Window} (hn : w.wnext < w.wsize) {data : List Byte}
    (hlt : data.length < w.wsize) {k : Nat} (hk : k < data.length) :
    Memory.read (w.append data).ram ((w.wnext + k) % w.wsize) = data.getD k 0 := by
  rw [List.getD_eq_getElem _ _ hk, ring_position hn (hk.trans hlt)]
  obtain ⟨hfull, h⟩ | ⟨-, hfits, h⟩ | ⟨-, hwraps, h⟩ := w.append_cases hn data
  · omega
  · have hbefore : w.wnext + k < w.wsize := by omega
    rw [h, if_pos hbefore, Memory.read_write_inside hk]
  · rw [h]
    split
    · next hbefore =>
      have htake : k < (data.take (w.wsize - w.wnext)).length := by rw [List.length_take]; omega
      rw [Memory.read_write_outside (by rw [List.length_drop]; omega), Memory.read_write_inside htake,
        List.getElem_take]
    · next hafter =>
      have hdrop : w.wnext + k - w.wsize < (data.drop (w.wsize - w.wnext)).length := by rw [List.length_drop]; omega
      have hread := Memory.read_write_inside
        (m := Memory.write w.ram w.wnext (data.take (w.wsize - w.wnext))) (a := 0) hdrop
      rw [Nat.zero_add, List.getElem_drop] at hread
      rw [hread]
      congr 1
      omega

/-- After data shorter than the ring, positions back are counted from the end of the data (45_window.md R403,
R406). -/
theorem Window.back_append_of_lt {w : Window} (hn : w.wnext < w.wsize) {data : List Byte}
    (hlt : data.length < w.wsize) (j : Nat) :
    (w.append data).back j =
      Memory.read (w.append data).ram (((w.wnext : Int) + data.length - j) % (w.wsize : Int)).toNat := by
  rw [Window.back, Window.append_wsize, Window.append_wnext hn, if_neg (Nat.not_le.2 hlt), Int.natCast_mod,
    Int.emod_sub_emod, Nat.cast_add]

/-- The position `j` back in a ring (45_window.md R406): `j` less, with the size added where that is before the
start. -/
theorem ring_back {n j size : Nat} (hn : n < size) (hj : j ≤ size) :
    (((n : Int) - j) % (size : Int)).toNat = if j ≤ n then n - j else n + size - j := by
  split
  · rw [Int.emod_eq_of_lt] <;> omega
  · rw [← Int.add_emod_right, Int.emod_eq_of_lt] <;> omega

/-- The most recent bytes are the last of the new data (45_window.md R404). -/
theorem Window.back_append_new {w : Window} (hn : w.wnext < w.wsize) {data : List Byte} {j : Nat} (hj : 1 ≤ j)
    (hdata : j ≤ data.length) (hsize : j ≤ w.wsize) :
    (w.append data).back j = data.getD (data.length - j) 0 := by
  by_cases hfull : w.wsize ≤ data.length
  · rw [Window.back, w.append_wsize, Window.append_wnext hn, if_pos hfull, ring_back (by omega) hsize,
      if_neg (by omega), Window.read_append_of_full hfull (by omega)]
    congr 1
    omega
  · rw [Window.back_append_of_lt hn (Nat.lt_of_not_le hfull)]
    have haddr : ((w.wnext : Int) + data.length - j) = (w.wnext + (data.length - j) : Nat) := by omega
    rw [haddr, ← Int.natCast_mod, Int.toNat_natCast, Window.read_append_of_lt hn (Nat.lt_of_not_le hfull) (by omega)]

/-- Beyond the new data lie the bytes that lay there before (45_window.md R404). -/
theorem Window.back_append_old {w : Window} (hn : w.wnext < w.wsize) {data : List Byte} {j : Nat}
    (hdata : data.length < j) (hsize : j ≤ w.wsize) :
    (w.append data).back j = w.back (j - data.length) := by
  have hlt := hdata.trans_le hsize
  have haddr : (w.wnext : Int) + data.length - j = w.wnext - (j - data.length : Nat) := by omega
  rw [Window.back_append_of_lt hn hlt, haddr, Window.back, Window.read_append_outside hn]
  rw [Window.writes_iff_of_lt hn hlt, ring_back hn (by omega)]
  split <;> omega

/-- Settles O34: the position `j` back lies in the new data or beyond it. -/
theorem windowKeepsTheHistory : Obligations.WindowKeepsTheHistory := by
  intro w data j hn hh hf hj hback
  rw [Window.append_whave hn hh hf] at hback
  split
  · next hdata => exact Window.back_append_new hn hj hdata (by omega)
  · next hdata => exact Window.back_append_old hn (Nat.lt_of_not_le hdata) (by omega)

end Sys2Proof.Machine
end

section
/-! What the elements of the stream, and the steps, leave unchanged (10_state.md R30 to R32, 45_window.md R403): each element is settled by the groups of fields its rule does not write. -/

namespace Sys2Proof.Machine

/-! ### Groups of fields -/

/-- What no stream element writes: the configuration, the call's flush mode, the queue, and the model's parameter. -/
def State.configuration (s : State) : Bool × Wrap × Bool × Flush × List Command × Bool :=
  (s.valid, s.wrap, s.havedict, s.flush, s.commands, s.allocMayFail)

/-- What only output and the end of a call write of the window, the totals and the reply. -/
def State.record (s : State) : Window × U32 × U64 × U64 × Option Reply :=
  (s.win, s.total, s.totalIn, s.totalOut, s.reply)

/-- What only elements without output write: the header's fields and the code lengths. -/
def State.headerFields (s : State) :
    Option HeaderRecord × U32 × Byte × Fmt × Nat × List (BitVec 4) × Nat × Code ClEntry :=
  (s.head, s.hcheck, s.gflg, s.fmt, s.wbits, s.lens, s.ncnt, s.clcode)

/-- What an element without output leaves unchanged. -/
def State.quietFields (s : State) := (s.configuration, s.record, s.outBuf, s.left, s.running)

/-- What an element with output leaves unchanged while the call goes on. -/
def State.outputFields (s : State) := (s.configuration, s.headerFields, s.record)

theorem outputFields_eq_iff {s t : State} : t.outputFields = s.outputFields ↔
    t.configuration = s.configuration ∧ t.headerFields = s.headerFields ∧ t.record = s.record := by
  simp only [State.outputFields, Prod.mk.injEq]

theorem win_eq_of_record {s t : State} (h : t.record = s.record) : t.win = s.win := (Prod.mk.inj h).1

theorem wbits_eq_of_headerFields {s t : State} (h : t.headerFields = s.headerFields) : t.wbits = s.wbits := by
  simp only [State.headerFields, Prod.mk.injEq] at h
  obtain ⟨-, -, -, -, hwbits, -⟩ := h
  exact hwbits

/-! ### Elements without output -/

theorem pushLens_quietFields (len : BitVec 4) (n : Nat) (s : State) :
    (pushLens len n s).quietFields = s.quietFields := by
  obtain ⟨l, hl⟩ := pushLens_eq len n s
  rw [hl]
  rfl

theorem repeatLens_quietFields (len : BitVec 4) (cnt : Nat) (s : State) :
    (repeatLens len cnt s).quietFields = s.quietFields := by
  unfold repeatLens
  split
  · rfl
  · exact pushLens_quietFields len cnt s

/-- A field of the gzip header goes to the record and the header CRC (41_wrapper.md R194 to R197). -/
theorem headerField_quietFields (f : HeaderRecord → HeaderRecord) (bytes : List Byte) (m : Mode) (s : State) :
    (((s.mapHead f).crcHeader bytes).consumeField m).quietFields = s.quietFields := by
  simp [State.quietFields, State.configuration, State.record, State.consumeField]

theorem checkTrailer_quietFields (v : U32) (s : State) : (checkTrailer v s).quietFields = s.quietFields := by
  unfold checkTrailer
  split <;> rfl

/-! ### Elements with output -/

/-- An element with output goes on, or leaves with the output it found (46_host.md R450). -/
inductive OutputStep (s t : State) : Prop where
  | goesOn (h : t.outputFields = s.outputFields)
  | leaves (u : State) (r : Status) (h : u.outputFields = s.outputFields) (hout : u.outBuf = s.outBuf)
      (ht : t = leave r u)

/-- What was done before to other fields is part of the element. -/
theorem OutputStep.of_same {s u t : State} (h : OutputStep u t) (hu : u.outputFields = s.outputFields)
    (hout : u.outBuf = s.outBuf) : OutputStep s t := by
  cases h with
  | goesOn h => exact .goesOn (h.trans hu)
  | leaves v r h hv ht => exact .leaves v r (h.trans hu) (hv.trans hout) ht

theorem OutputStep.leave (r : Status) (s : State) : OutputStep s (leave r s) := .leaves s r rfl rfl rfl

theorem stopForTrees_output (s : State) : OutputStep s (stopForTrees s) := by
  unfold stopForTrees
  split
  · exact .leave .ok s
  · exact .goesOn rfl

theorem litRule_output (s : State) : OutputStep s (litRule s) := by
  obtain ⟨-, h⟩ | ⟨-, h⟩ := litRule_cases s <;> rw [h]
  · exact .leave .ok s
  · exact .goesOn rfl

theorem memWriteAll_outputFields (data : List Byte) (s : State) :
    (memWriteAll data s).outputFields = s.outputFields := by
  rw [memWriteAll_eq]
  rfl

theorem copyBack_outputFields (d n : Nat) (s : State) : (copyBack d n s).outputFields = s.outputFields := by
  induction n generalizing s with
  | zero => rfl
  | succ n ih => exact ih (memWrite (hist d s) s)

theorem matchRule_output (s : State) : OutputStep s (matchRule s) := by
  obtain ⟨-, h⟩ | ⟨-, -, h⟩ | ⟨-, -, h⟩ := matchRule_cases s <;> rw [h]
  · exact .leave .ok s
  · exact .goesOn rfl
  · exact .goesOn (copyBack_outputFields s.offset _ s)

theorem distanceElement_output (k : Fin 30) (x : Nat) (s : State) : OutputStep s (distanceElement k x s) := by
  unfold distanceElement finishDistance
  dsimp only
  split
  · exact .goesOn rfl
  · exact (matchRule_output _).of_same rfl rfl

/-! ### Every element -/

/-- What an element does, by whether it can output. -/
def ElementStep (mayOutput : Bool) (s t : State) : Prop :=
  match mayOutput with
  | false => t.quietFields = s.quietFields
  | true => OutputStep s t

/-- Every stream element answers a next state that such a rule allows. -/
theorem exec_elementStep {i : Instr} (hi : i.isCommand = false) (s : State) :
    ∃ t, exec i s = .next t ∧ ElementStep i.mayOutput s t := by
  cases i with
  | init | reset | inflate | setDictionary | getHeader | teardown => cases hi
  | gzipCmFlg cm flg =>
    refine ⟨_, rfl, ?_⟩
    change _ = s.quietFields
    split
    · rfl
    split
    · rfl
    · exact headerField_quietFields _ [cm, flg] .time { s with gflg := flg }
  | gzipMtime t => exact ⟨_, rfl, headerField_quietFields _ (le32 t) .os s⟩
  | gzipXflOs xfl os => exact ⟨_, rfl, headerField_quietFields _ [xfl, os] .exlen s⟩
  | gzipXlen n => exact ⟨_, rfl, headerField_quietFields _ (le16 n) .extra { s with length := n.toNat }⟩
  | zlibHeader | gzipName | gzipComment | gzipHcrc | gzipIsize | dynCounts =>
    refine ⟨_, rfl, ?_⟩
    change _ = s.quietFields
    repeat' split
    all_goals rfl
  | zlibAdler32 v | gzipCrc32 v => exact ⟨_, rfl, checkTrailer_quietFields v s⟩
  | clLength cw len => exact ⟨_, rfl, pushLens_quietFields len 1 (s.dropBits cw.len)⟩
  | clRepeatPrev =>
    refine ⟨_, rfl, ?_⟩
    change _ = s.quietFields
    split
    · rfl
    · exact repeatLens_quietFields _ _ _
  | clZeroShort cw r => exact ⟨_, rfl, repeatLens_quietFields 0 (zeroShortCount r) ((s.dropBits cw.len).dropBits 3)⟩
  | clZeroLong cw r => exact ⟨_, rfl, repeatLens_quietFields 0 (zeroLongCount r) ((s.dropBits cw.len).dropBits 7)⟩
  | literal _ v => exact ⟨_, rfl, .of_same (litRule_output { s with length := v.toNat, mode := .lit }) rfl rfl⟩
  | storedData data => exact ⟨_, rfl, .goesOn (memWriteAll_outputFields data s)⟩
  | blockFixed =>
    refine ⟨_, rfl, ?_⟩
    change OutputStep s _
    exact (stopForTrees_output _).of_same rfl rfl
  | storedLenNlen =>
    refine ⟨_, rfl, ?_⟩
    change OutputStep s _
    split
    · exact .goesOn rfl
    · exact (stopForTrees_output _).of_same rfl rfl
  | distance0 | distance1 | distance2 | distance3 | distance4 | distance5 | distance6 | distance7 | distance8
  | distance9 | distance10 | distance11 | distance12 | distance13 | distance14 | distance15 | distance16 | distance17
  | distance18 | distance19 | distance20 | distance21 | distance22 | distance23 | distance24 | distance25 | distance26
  | distance27 | distance28 | distance29 => exact ⟨_, rfl, distanceElement_output _ _ s⟩
  | _ => exact ⟨_, rfl, Eq.refl s.quietFields⟩

/-! ### The end of a call -/

theorem leave_configuration (r : Status) (s : State) : (leave r s).configuration = s.configuration := by
  simp [State.configuration]

theorem leave_headerFields (r : Status) (s : State) : (leave r s).headerFields = s.headerFields := by
  simp [State.headerFields]

/-- The window an update writes into has room, and the RAM of the old one (45_window.md R402). -/
theorem freshWindow_ready {s : State} (h : s.win.wnext < s.win.wsize ∨ s.win.wsize = 0) :
    (freshWindow s).wnext < (freshWindow s).wsize ∧ (freshWindow s).ram = s.win.ram := by
  unfold freshWindow
  split
  · exact ⟨by positivity, rfl⟩
  · next hsize => exact ⟨h.resolve_right hsize, rfl⟩

/-- LEAVE stores to no window address but those of its update with the output (46_host.md R450, 45_window.md
R403). -/
theorem read_leave_outside {s : State} (h : s.win.wnext < s.win.wsize ∨ s.win.wsize = 0) (r : Status) {a : Nat}
    (ha : ¬(freshWindow s).writes s.outBuf a) : Memory.read (leave r s).win.ram a = Memory.read s.win.ram a := by
  obtain ⟨hready, hram⟩ := freshWindow_ready h
  obtain ⟨-, -, -, -, -, hwin⟩ | ⟨-, -, hwin⟩ := leave_cases r s <;> rw [hwin]
  split
  · rfl
  · rw [Window.read_append_outside hready ha, hram]

/-! ### The frame of every element -/

/-- What an element with output leaves unchanged, whether or not it ends the call. -/
theorem OutputStep.fixed {s t : State} (h : OutputStep s t) :
    t.configuration = s.configuration ∧ t.headerFields = s.headerFields := by
  cases h with
  | goesOn h =>
    obtain ⟨hconfiguration, hheader, -⟩ := outputFields_eq_iff.1 h
    exact ⟨hconfiguration, hheader⟩
  | leaves u r h _ ht =>
    obtain ⟨hconfiguration, hheader, -⟩ := outputFields_eq_iff.1 h
    rw [ht, leave_configuration, leave_headerFields]
    exact ⟨hconfiguration, hheader⟩

/-- An element with output that does not end the call leaves its record. -/
theorem OutputStep.record {s t : State} (h : OutputStep s t) (hr : t.running = true) : t.record = s.record := by
  cases h with
  | goesOn h => exact (outputFields_eq_iff.1 h).2.2
  | leaves u r _ _ ht => simp [ht] at hr

/-- Window RAM is written by LEAVE only. -/
theorem OutputStep.ram {s t : State} (h : OutputStep s t) (hs : s.win.wnext < s.win.wsize ∨ s.win.wsize = 0) {a : Nat}
    (ha : ¬(freshWindow s).writes s.outBuf a) : Memory.read t.win.ram a = Memory.read s.win.ram a := by
  cases h with
  | goesOn h =>
    obtain ⟨-, -, hrecord⟩ := outputFields_eq_iff.1 h
    rw [win_eq_of_record hrecord]
  | leaves u r h hout ht =>
    obtain ⟨-, hheader, hrecord⟩ := outputFields_eq_iff.1 h
    have hwin := win_eq_of_record hrecord
    have hfresh : freshWindow u = freshWindow s := by
      rw [freshWindow, freshWindow, hwin, wbits_eq_of_headerFields hheader]
    rw [ht, read_leave_outside (hwin ▸ hs) r (by rwa [hfresh, hout]), hwin]

/-- Settles O59: an element without output writes no such field, one with output leaves the rest to LEAVE. -/
theorem framesOfStreamElements : Obligations.FramesOfStreamElements := by
  intro i s t hi ht
  obtain ⟨t', ht', h⟩ := exec_elementStep hi s
  cases ht'.symm.trans ht
  cases hout : i.mayOutput with
  | false =>
    rw [hout] at h
    change t.quietFields = s.quietFields at h
    simp only [State.quietFields, State.configuration, State.record, Prod.mk.injEq] at h
    obtain ⟨hconfiguration, ⟨hwin, htotals⟩, hbuf, hleft, hrunning⟩ := h
    obtain ⟨htotal, htotalIn, htotalOut, hreply⟩ := htotals
    exact ⟨hconfiguration, fun _ => ⟨hwin, fun a => by rw [hwin], hbuf, hleft, htotal, htotalIn, htotalOut, hreply,
      hrunning⟩, nofun, nofun, nofun⟩
  | true =>
    rw [hout] at h
    change OutputStep s t at h
    obtain ⟨hconfiguration, hheader⟩ := h.fixed
    simp only [State.configuration, State.headerFields, Prod.mk.injEq] at hconfiguration hheader
    refine ⟨hconfiguration, nofun, fun _ => hheader, fun _ _ hr => ?_, fun _ hs _ ha => h.ram hs ha⟩
    simpa only [State.record, Prod.mk.injEq] using h.record hr

/-! ### The frame of every step -/

/-- A command other than INIT leaves the wrapper and the window size as they are (10_state.md R31, R32). -/
theorem exec_command_keeps_wrap {c : Command} (hc : ∀ w, c ≠ .init w) {s t : State}
    (h : exec (decodeCommand c) s = .next t) : t.wrap = s.wrap ∧ t.wbits = s.wbits := by
  cases c with
  | init w => exact absurd rfl (hc w)
  | setDictionary dict =>
    injection h with h
    subst h
    repeat' split
    all_goals simp [answer]
  | _ =>
    injection h with h
    subst h
    repeat' split
    all_goals exact ⟨rfl, rfl⟩

theorem CommandStep.allocMayFail {s t : State} (h : CommandStep s t) : t.allocMayFail = s.allocMayFail := by
  cases h with
  | dictionary dict _ _ _ ht => rw [ht]; exact windowUpdate_allocMayFail dict s
  | refused _ ht | init _ _ _ _ ht | resetKeep ht | resetFull ht | inflate _ _ _ _ ht | header _ ht | teardown ht =>
    rw [ht]; rfl

/-- A step of a call keeps the wrapper, a known window size and the parameter, and the window until it leaves. -/
theorem CallStep.keeps {s t : State} (h : CallStep s t) :
    (t.running = true → t.win = s.win) ∧ t.wrap = s.wrap ∧ (s.wbits ≠ 0 → t.wbits = s.wbits) ∧
      t.allocMayFail = s.allocMayFail := by
  cases h with
  | goesOn h => exact ⟨fun _ => h.win, h.wrap, h.wbits, h.allocMayFail⟩
  | leaves u r h ht => simpa [ht] using ⟨h.wrap, h.wbits, h.allocMayFail⟩

/-- Settles O60: a step of a call follows the frame of its rule, a command its own result. -/
theorem windowAndConfigurationFrame : Obligations.WindowAndConfigurationFrame := by
  intro s t h
  cases hr : s.running with
  | true =>
    obtain ⟨hwin, hwrap, hbits, halloc⟩ := (step_running hr h).keeps
    exact ⟨fun _ => hwin, fun hne => hne.elim (absurd hwrap) fun hne => absurd (hbits hne.1) hne.2, halloc⟩
  | false =>
    refine ⟨nofun, ?_⟩
    cases step_cases h with
    | idle _ _ ht => simp [ht]
    | command c rest _ hc _ ht =>
      refine ⟨fun hne => ⟨rfl, by_contra fun hinit => ?_⟩, (exec_command_step ht).allocMayFail⟩
      have hc' : ∀ w, c ≠ .init w := fun w hw => hinit ⟨w, rest, hw ▸ hc⟩
      obtain ⟨hwrap, hbits⟩ := exec_command_keeps_wrap hc' ht
      exact hne.elim (absurd hwrap) fun hne => absurd hbits hne.2
    | element _ _ _ hr' | starved _ _ _ hr' | move hr' => rw [hr] at hr'; cases hr'

end Sys2Proof.Machine
end

section
/-! The end of a call, and the host commands (46_host.md R440 to R471): what LEAVE's epilogue and the six commands write, case by case, and which instruction a step runs. -/

namespace Sys2Proof.Machine

/-- Settles O57: both checksums fold over the bytes, and a run is written byte by byte. -/
theorem checksumsAreIncremental : Obligations.ChecksumsAreIncremental :=
  ⟨fun c first second => (adler32Update_append c first second).symm,
    fun c first second => (crc32Update_append c first second).symm, memWriteAll_check⟩

/-! ### The window update and the epilogue -/

/-- A WindowUpdate of `s` allocates the window, and the allocation is drawn to fail (45_window.md R402; log 6). -/
def updateFails (s : State) : Prop :=
  (s.win.wsize = 0 ∧ s.allocMayFail = true) ∧ Config.allocFails s.allocDraws = true

/-- The draws made after a WindowUpdate of `s` (log 6). -/
def drawsAfterUpdate (s : State) : Nat :=
  if s.win.wsize = 0 ∧ s.allocMayFail = true then s.allocDraws + 1 else s.allocDraws

theorem updateFails.unallocated {s : State} (h : updateFails s) : s.win.wsize = 0 := h.1.1

theorem windowUpdate_of_failed (data : List Byte) {s : State} (h : updateFails s) :
    windowUpdate data s = { s with mode := .mem, allocDraws := drawsAfterUpdate s } := by
  obtain ⟨⟨hsize, hmay⟩, hfails⟩ := h
  simp [windowUpdate, allocate, allocationFails, windowMissing, drawsAfterUpdate, hsize, hmay, hfails]

theorem allocate_of_not_failed {s : State} (h : ¬updateFails s) (hsize : s.win.wsize = 0) :
    allocate s = { s with win := freshWindow s, allocDraws := drawsAfterUpdate s } := by
  have hdraw : allocationFails s = false := by simpa [updateFails, allocationFails, hsize] using h
  cases hmay : s.allocMayFail <;> simp [allocate, freshWindow, drawsAfterUpdate, hdraw, hsize, hmay]

theorem freshWindow_wsize_ne_zero (s : State) : (freshWindow s).wsize ≠ 0 := by
  unfold freshWindow
  split
  · exact (Nat.two_pow_pos _).ne'
  · next hsize => exact hsize

theorem windowUpdate_of_not_failed (data : List Byte) {s : State} (h : ¬updateFails s) :
    windowUpdate data s = { s with win := (freshWindow s).append data, allocDraws := drawsAfterUpdate s } := by
  have hfresh : (if s.win.wsize = 0 then allocate s else s) =
      { s with win := freshWindow s, allocDraws := drawsAfterUpdate s } := by
    split
    · next hsize => exact allocate_of_not_failed h hsize
    · next hsize => simp [freshWindow, drawsAfterUpdate, hsize]
  rw [windowUpdate, hfresh]
  simp [windowMissing, freshWindow_wsize_ne_zero]

theorem leave_of_no_output (r : Status) {s : State} (h : s.outBuf = []) :
    leave r s = endCall (callStatus r s.src.taken s.outBuf.length s.flush) (addTotals s) := by
  simp [leave, h]

theorem leave_of_failed (r : Status) {s : State} (hout : s.outBuf ≠ []) (h : updateFails s) :
    leave r s = endCall .memError { s with mode := .mem, allocDraws := drawsAfterUpdate s } := by
  simp [leave, hout, windowUpdate_of_failed _ h, windowMissing, h.unallocated]

theorem leave_of_not_failed (r : Status) {s : State} (hout : s.outBuf ≠ []) (h : ¬updateFails s) :
    leave r s = endCall (callStatus r s.src.taken s.outBuf.length s.flush)
      (addTotals { s with win := (freshWindow s).append s.outBuf, allocDraws := drawsAfterUpdate s }) := by
  simp [leave, hout, windowUpdate_of_not_failed _ h, windowMissing, freshWindow_wsize_ne_zero]

/-- Settles O35: each clause is one case of the epilogue, and `callStatus` its status. -/
theorem leaveResult : Obligations.LeaveResult := by
  intro r s
  refine ⟨fun hout => ?_, fun hout h => leave_of_not_failed r hout h, fun hout hdraw hfails =>
    leave_of_failed r hout ⟨hdraw, hfails⟩⟩
  rw [leave_of_no_output r hout, endCall, addTotals]
  simp [hout, callStatus]

/-! ### The host commands -/

theorem exec_init_legal {w : Int} {wrap : Wrap} {wbits : Nat} (h : windowBitsConfig w = some (wrap, wbits))
    (s : State) : exec (.init w) s =
      .next (answer .ok (resetKeep (discardWindow { s with valid := true, wrap := wrap, wbits := wbits }))) := by
  rw [exec, execInit, h]

theorem exec_init_illegal {w : Int} (h : windowBitsConfig w = none) (s : State) :
    exec (.init w) s = .next (answer .streamError s) := by
  rw [exec, execInit, h]

/-- The rows of R442 that give a window size `2^n`. -/
theorem windowBitsConfig_sized {n : Nat} (hmin : 8 ≤ n) (hmax : n ≤ 15) :
    windowBitsConfig (-(n : Int)) = some (.none, n) ∧ windowBitsConfig (n : Int) = some (.zlib, n) ∧
    windowBitsConfig ((n : Int) + 16) = some (.gzip, n) ∧ windowBitsConfig ((n : Int) + 32) = some (.auto, n) := by
  interval_cases n <;> decide

/-- Every value R442 does not list is illegal. -/
theorem windowBitsConfig_illegal {w : Int} (hraw : ¬(-15 ≤ w ∧ w ≤ -8)) (hzero : w ≠ 0) (hzlib : ¬(8 ≤ w ∧ w ≤ 16))
    (hgzip : ¬(24 ≤ w ∧ w ≤ 32)) (hauto : ¬(40 ≤ w ∧ w ≤ 47)) : windowBitsConfig w = none := by
  unfold windowBitsConfig
  rw [if_neg hraw, if_neg hzero, if_neg (by omega), if_neg (by omega), if_neg (by omega), if_neg (by omega),
    if_neg hauto]

/-- Settles O37: a row of the table is a reset over a discarded window, any other value an argument error. -/
theorem initResult : Obligations.InitResult := by
  intro s
  refine ⟨fun n hmin hmax => ?_, exec_init_legal rfl s, exec_init_legal rfl s, exec_init_legal rfl s,
    fun w hraw hzero hzlib hgzip hauto =>
      exec_init_illegal (windowBitsConfig_illegal hraw hzero hzlib hgzip hauto) s⟩
  obtain ⟨hnone, hzlib, hgzip, hauto⟩ := windowBitsConfig_sized hmin hmax
  exact ⟨exec_init_legal hnone s, exec_init_legal hzlib s, exec_init_legal hgzip s, exec_init_legal hauto s⟩

theorem exec_inflate_of_flush {s : State} (hvalid : s.valid = true) {code : Byte} {flush : Flush}
    (hcode : flushOfCode code = some flush) (input : List Byte) (availOut : Nat) :
    exec (.inflate input availOut code) s = .next (startCall input availOut flush s) := by
  simp [exec, execInflate, hvalid, hcode]

/-- Settles O39: the five codes are those of R136, and the prologue writes the call. -/
theorem inflateOpensACall : Obligations.InflateOpensACall := by
  intro input availOut s hvalid p hp
  have hcodes : ∀ p ∈ [((0 : Byte), Flush.noFlush), (2, .syncFlush), (4, .finish), (5, .block), (6, .trees)],
      flushOfCode p.1 = some p.2 := by decide
  exact exec_inflate_of_flush hvalid (hcodes p hp) input availOut

/-- SET_DICTIONARY in DICT (46_host.md R452). -/
theorem exec_setDictionary_in_dict {s : State} (hvalid : s.valid = true) (hm : s.mode = .dict) (dict : List Byte) :
    exec (.setDictionary dict) s = .next (
      if adler32Update 1 dict ≠ s.check then answer .dataError s
      else if windowMissing (windowUpdate dict s) then answer .memError (windowUpdate dict s)
      else answer .ok { windowUpdate dict s with havedict := true }) := by
  rw [exec, execSetDictionary, if_neg (by simp [hvalid, hm])]

/-- Settles O40: each clause is one branch of its command, the dictionary's by the cases of WindowUpdate. -/
theorem dictionaryHeaderTeardownResults : Obligations.DictionaryHeaderTeardownResults := by
  intro dict r s hvalid
  refine ⟨fun hm hid => ?_, fun hm hid h => ?_, fun hm hid hdraw hfails => ?_, fun hm hwrap => ?_, ?_⟩
  · rw [exec_setDictionary_in_dict hvalid hm, if_pos hid]
    rfl
  · rw [exec_setDictionary_in_dict hvalid hm, if_neg (not_not.2 hid), windowUpdate_of_not_failed dict h,
      if_neg (by simp [windowMissing, freshWindow_wsize_ne_zero])]
    rfl
  · rw [exec_setDictionary_in_dict hvalid hm, if_neg (not_not.2 hid),
      windowUpdate_of_failed dict ⟨hdraw, hfails⟩, if_pos (by simp [windowMissing, hdraw.1])]
    rfl
  · rw [exec, execGetHeader, if_neg (by simp [hvalid, hm]; tauto)]
    rfl
  · rw [exec, execTeardown, if_neg (by simp [hvalid])]
    rfl

/-- Where `valid` is false every command but INIT is an argument error (46_host.md R456). -/
theorem exec_command_of_invalid {s : State} (h : s.valid = false) {c : Command} (hc : ∀ w, c ≠ .init w) :
    exec (decodeCommand c) s = .next (answer .streamError s) := by
  cases c with
  | init w => exact absurd rfl (hc w)
  | reset | inflate | teardown => exact congrArg _ (if_pos h)
  | setDictionary | getHeader => exact congrArg _ (if_pos (.inl h))

/-- A flush value outside R136's five is none. -/
theorem flushOfCode_illegal {f : Byte} (h : f ∉ [(0 : Byte), 2, 4, 5, 6]) : flushOfCode f = none := by
  simp only [List.mem_cons, List.not_mem_nil, or_false, not_or] at h
  obtain ⟨h0, h2, h4, h5, h6⟩ := h
  unfold flushOfCode
  rw [if_neg h0, if_neg h2, if_neg h4, if_neg h5, if_neg h6]

theorem exec_inflate_illegal {f : Byte} (h : flushOfCode f = none) (input : List Byte) (availOut : Nat) (s : State) :
    exec (.inflate input availOut f) s = .next (answer .streamError s) := by
  simp [exec, execInflate, h]

/-- Settles O41: in each case the command's first check answers. -/
theorem argumentErrorsChangeNothing : Obligations.ArgumentErrorsChangeNothing := by
  intro s
  refine ⟨fun w hraw hzero hzlib hgzip hauto =>
      exec_init_illegal (windowBitsConfig_illegal hraw hzero hzlib hgzip hauto) s,
    fun h => ⟨fun keep => exec_command_of_invalid (c := .reset keep) h nofun,
      fun input out f => exec_command_of_invalid (c := .inflate input out f) h nofun,
      fun dict => exec_command_of_invalid (c := .setDictionary dict) h nofun,
      fun r => exec_command_of_invalid (c := .getHeader r) h nofun, exec_command_of_invalid (c := .teardown) h nofun⟩,
    fun input out f hf => exec_inflate_illegal (flushOfCode_illegal hf) input out s,
    fun hm dict => congrArg _ (if_pos (.inr hm)), fun h r => congrArg _ (if_pos (.inr ?_))⟩
  obtain hw | hw | hm := h
  · exact .inl (by simp [hw])
  · exact .inl (by simp [hw])
  · exact .inr hm

/-! ### A call in a terminal mode -/

/-- Between calls the call's registers are empty (10_state.md R49; log 10). -/
theorem CallOk.registers_empty {s : State} (h : CallOk s) (hr : s.running = false) :
    { s with running := false, src := ⟨s.src.hold, s.src.bits, [], 0⟩, left := 0, outBuf := [] } = s := by
  obtain ⟨hinput, htaken, hout, hleft⟩ := h.idle hr
  calc _ = { s with
        running := s.running, src := ⟨s.src.hold, s.src.bits, s.src.input, s.src.taken⟩, left := s.left
        outBuf := s.outBuf } := by rw [hr, hinput, htaken, hout, hleft]
    _ = s := rfl

/-- A call that leaves as it starts returns its status and leaves the rest as it was (46_host.md R457). -/
theorem leave_startCall {s : State} (h : CallOk s) (hr : s.running = false) (hm : s.mode ≠ .type) {r : Status}
    (hok : r ≠ .ok) (input : List Byte) (availOut : Nat) (flush : Flush) :
    leave r (startCall input availOut flush s) = { s with flush := flush, reply := some ⟨r, 0, []⟩ } := by
  rw [leave_of_no_output r rfl]
  conv_rhs => rw [← h.registers_empty hr]
  simp [endCall, addTotals, startCall, callStatus, hm, hok]

/-- The first step of a call in a mode whose rule is to leave with `r`. -/
theorem step_startCall_of_leave {s : State} (h : CallOk s) (hr : s.running = false) {m : Mode} (hm : s.mode = m)
    (hne : m ≠ .type) (r : Status) (hok : r ≠ .ok)
    (ha : ∀ u : State, action (u.goto m) = .move (.next (leave r (u.goto m)))) (input : List Byte) (availOut : Nat)
    (flush : Flush) :
    step (startCall input availOut flush s) = .next { s with flush := flush, reply := some ⟨r, 0, []⟩ } := by
  rw [step_of_leave rfl (by simp [startCall, hm, hne]) (ha _), leave_startCall h hr (hm ▸ hne) hok]

/-- Settles O42: the call starts in the terminal mode it found, and that mode leaves. -/
theorem terminalCallResult : Obligations.TerminalCallResult := by
  intro s u input availOut f flush hcall hr hvalid hf hu
  cases (exec_inflate_of_flush hvalid hf input availOut).symm.trans hu
  exact ⟨fun hm => step_startCall_of_leave hcall hr hm nofun .streamEnd nofun (fun _ => rfl) input availOut flush,
    fun hm => step_startCall_of_leave hcall hr hm nofun .dataError nofun (fun _ => rfl) input availOut flush,
    fun hm => step_startCall_of_leave hcall hr hm nofun .memError nofun (fun _ => rfl) input availOut flush⟩

/-! ### What a step runs -/

/-- In a mode whose rule reads an element, a step runs the element decoded. -/
theorem stepRuns_of_rule {s : State} {m : Mode} {ctx : Context} (hr : s.running = true) (hm : s.mode = m)
    (ha : action (s.goto m) = .read ctx) : StepRuns ctx s := by
  subst hm
  exact fun i q hd => step_of_element hr ha hd

/-- Settles O45: in a call by the rule of each mode, between calls by the queue. -/
theorem stepRunsTheDecodedInstruction : Obligations.StepRunsTheDecodedInstruction := by
  intro s
  refine ⟨fun hr => ⟨fun hm hw => ?head, fun hm => ?flags, fun hm => ?time, fun hm => ?os, fun hm hf => ?exlen,
    fun hm hf hl => ?extra, fun hm hf => ?name, fun hm hf => ?comment, fun hm hf => ?hcrc, fun hm => ?dictid,
    fun hm hl => ?typedo, fun hm => ?stored, fun hm hl hleft => ?copy, fun hm => ?table, fun hm hn => ?lenlens,
    fun hm hn => ?codelens, fun hm => ?len, fun hm => ?dist, fun hm hw hg => ?crc32, fun hm hw hg => ?adler32,
    fun hm hw hg => ?isize⟩, fun hr => ⟨fun hc => ?idle, fun c rest hc hwell => ?command⟩⟩
  case flags | time | os | dictid | stored | table | len | dist => exact stepRuns_of_rule hr hm rfl
  case head => exact stepRuns_of_rule hr hm (if_neg hw)
  case exlen | name | comment | hcrc => exact stepRuns_of_rule hr hm (if_pos hf)
  case extra => exact stepRuns_of_rule hr hm (if_pos ⟨hf, hl⟩)
  case typedo => exact stepRuns_of_rule hr hm (if_neg (ne_true_of_eq_false hl))
  case copy => exact stepRuns_of_rule hr hm ((if_neg hl).trans (if_neg hleft))
  case lenlens | codelens => exact stepRuns_of_rule hr hm (if_pos hn)
  case crc32 => exact stepRuns_of_rule hr hm ((if_neg hw).trans (if_pos hg))
  case adler32 => exact stepRuns_of_rule hr hm ((if_neg hw).trans (if_neg hg))
  case isize => exact stepRuns_of_rule hr hm (if_pos ⟨hw, hg⟩)
  case idle => simp [step, hr, stepHost, hc]
  case command => simp [step, hr, stepHost, hc, hwell]

end Sys2Proof.Machine
end

section
/-! Every call ends (46_host.md R448): each iteration of the mode loop that goes on uses up bits of the stream or output space, or moves to a mode nearer the end. -/

namespace Sys2Proof.Machine

/-! ### What is used up -/

/-- The moves a mode can be from one that reads an element, writes output or leaves: a mode that moves without either
moves to a mode of lower rank, and a failing element enters BAD. -/
def modeRank : Mode → Nat
  | .bad | .mem | .done => 0
  | .length | .len | .dist | .flags | .time | .os | .dictid | .stored | .table => 1
  | .check | .len_ | .lenext | .matched | .lit => 2
  | .typedo | .codelens | .distext => 3
  | .head | .type | .lenlens => 4
  | .dict | .copy | .hcrc => 5
  | .copy_ | .comment => 6
  | .name => 7
  | .extra => 8
  | .exlen => 9

theorem modeRank_le (m : Mode) : modeRank m ≤ 9 := by
  cases m <;> decide

/-- The bits still ahead and the output space still free. -/
def State.supply (s : State) : Nat := s.src.stream.length + s.left

theorem supply_eq (s : State) : s.supply = s.src.bits + 8 * s.src.input.length + s.left := by
  rw [State.supply, BitStream.stream_length]

/-- What bounds the iterations left: the supply, and before any of it is used the rank of the mode. -/
def State.fuel (s : State) : Nat := 40 * s.supply + modeRank s.mode

/-- The call ends with `t`, or has less than `n` left to go on with. -/
def State.EndsBefore (n : Nat) (t : State) : Prop := t.running = true → t.fuel < n

theorem leave_endsBefore (n : Nat) (r : Status) (s : State) : (leave r s).EndsBefore n :=
  fun hr => by simp at hr

theorem State.EndsBefore.mono {m n : Nat} {t : State} (h : t.EndsBefore m) (hmn : m ≤ n) : t.EndsBefore n :=
  fun hr => (h hr).trans_le hmn

theorem State.EndsBefore.stopForTrees {n : Nat} {t : State} (h : t.EndsBefore n) :
    (stopForTrees t).EndsBefore n := by
  unfold Machine.stopForTrees
  split
  · exact leave_endsBefore n .ok t
  · exact h

section

variable {s t : State}

/-- Once supply is used up, the mode does not matter. -/
theorem endsBefore_of_supply_lt (h : t.supply < s.supply) : t.EndsBefore (40 * s.supply) := by
  intro _
  have := modeRank_le t.mode
  unfold State.fuel
  omega

/-- Bits dropped or cleared are used up. -/
theorem endsBefore_of_bits_lt (hbits : t.src.bits < s.src.bits) (hinput : t.src.input = s.src.input)
    (hleft : t.left = s.left) : t.EndsBefore (40 * s.supply + 1) := by
  refine (endsBefore_of_supply_lt ?_).mono (Nat.le_succ _)
  rw [supply_eq, supply_eq, hinput, hleft]
  omega

/-- A move to the mode `m'`, of lower rank. -/
theorem endsBefore_of_move {m : Mode} (m' : Mode) (hm : s.mode = m) (hm' : t.mode = m' := by rfl)
    (hsupply : t.supply ≤ s.supply := by exact le_rfl) (hrank : modeRank m' < modeRank m := by decide) :
    t.EndsBefore s.fuel := by
  intro _
  rw [State.fuel, State.fuel, hm, hm']
  omega

end

theorem raise_endsBefore (e : Msg) (s : State) : (s.raise e).EndsBefore (40 * s.supply + 1) :=
  fun _ => Nat.lt_succ_self _

theorem litRule_endsBefore (s : State) : (litRule s).EndsBefore (40 * s.supply) := by
  obtain ⟨-, h⟩ | ⟨hleft, h⟩ := litRule_cases s <;> rw [h]
  · exact leave_endsBefore _ .ok s
  · refine endsBefore_of_supply_lt ?_
    simp only [supply_eq, State.goto_src, State.goto_left, memWrite_src, memWrite_left]
    omega

theorem copyBack_supply {n : Nat} {s : State} (d : Nat) (hn : n ≤ s.left) :
    (copyBack d n s).supply + n = s.supply := by
  simp only [supply_eq, copyBack_src, copyBack_left]
  omega

/-- A match with nothing to copy goes back to LEN; any other copies a byte at least (44_symbols.md R355). -/
theorem matchRule_endsBefore (s : State) : (matchRule s).EndsBefore (40 * s.supply + 2) := by
  obtain ⟨-, h⟩ | ⟨-, -, h⟩ | ⟨hleft, -, h⟩ := matchRule_cases s <;> rw [h]
  · exact leave_endsBefore _ .ok s
  · exact (raise_endsBefore .e16 s).mono (Nat.le_succ _)
  obtain hlength | hlength := Nat.eq_zero_or_pos s.length
  · simp only [hlength, Nat.zero_min, Nat.sub_zero, if_true, copyBack]
    exact fun _ => Nat.lt_succ_self (40 * s.supply + 1)
  · have hsupply := copyBack_supply s.offset (Nat.min_le_right s.length s.left)
    refine (endsBefore_of_supply_lt ?_).mono (Nat.le_add_right _ 2)
    change (copyBack s.offset (min s.length s.left) s).supply < _
    omega

theorem dropBits_supply_le (n : Nat) (s : State) : (s.dropBits n).supply ≤ s.supply := by
  simp only [supply_eq, State.dropBits_src, State.dropBits_left, BitStream.drop_bits, BitStream.drop_input]
  omega

theorem finishDistance_endsBefore (x : Nat) (s : State) : (finishDistance x s).EndsBefore (40 * s.supply + 2) := by
  have hdrop : 40 * ({ s with offset := s.offset + x }.dropBits s.extra).supply ≤ 40 * s.supply :=
    Nat.mul_le_mul_left 40 (dropBits_supply_le s.extra { s with offset := s.offset + x })
  unfold finishDistance
  dsimp only
  split
  · exact (raise_endsBefore .e16 _).mono (by omega)
  · exact (matchRule_endsBefore _).mono (Nat.add_le_add_right hdrop 2)


/-! ### What an element uses up -/

/-- Where a bit is held the element drops or clears one, unless it fails or ends the call. -/
def Spends (i : Instr) : Prop :=
  ∀ s : State, 0 < s.src.bits → ∃ t, exec i s = .next t ∧ t.EndsBefore (40 * s.supply + 1)

/-- The element adds nothing to the supply. -/
def Keeps (i : Instr) : Prop :=
  ∀ s : State, ∃ t, exec i s = .next t ∧ t.EndsBefore (40 * (s.supply + 1))

theorem keeps_of_supply_le {i : Instr} (h : ∀ s, ∃ t, exec i s = .next t ∧ t.supply ≤ s.supply) : Keeps i := by
  intro s
  obtain ⟨t, ht, hle⟩ := h s
  refine ⟨t, ht, fun _ => ?_⟩
  have := modeRank_le t.mode
  unfold State.fuel
  omega

/-- An element whose meaning empties the accumulator. -/
theorem spends_of_initBits {i : Instr} (h : ∀ s, ∃ t, exec i s = .next t ∧ t.src = s.src.initBits ∧ t.left = s.left) :
    Spends i := by
  intro s hb
  obtain ⟨t, ht, hsrc, hleft⟩ := h s
  exact ⟨t, ht, endsBefore_of_bits_lt (hsrc ▸ hb) (hsrc ▸ rfl) hleft⟩

theorem zlibHeader_spends (cmf flg : Byte) : Spends (.zlibHeader cmf flg) := by
  intro s hb
  refine ⟨_, rfl, ?_⟩
  rw [mapHead_knownWbits]
  generalize (if s.wbits = 0 then zlibWindowBits cmf else s.wbits) = wbits
  split
  · exact raise_endsBefore .e1 _
  split
  · exact raise_endsBefore .e2 _
  split
  · exact raise_endsBefore .e3 _
  split
  · exact raise_endsBefore .e3 _
  · exact endsBefore_of_bits_lt hb rfl rfl

theorem headInstr_spends (wrap : Wrap) (q : BitStream) : Spends (headInstr wrap q) := by
  unfold headInstr
  split
  · exact spends_of_initBits fun s => ⟨_, rfl, rfl, rfl⟩
  · exact zlibHeader_spends _ _

theorem gzipCmFlg_spends (cm flg : Byte) : Spends (.gzipCmFlg cm flg) := by
  intro s hb
  refine ⟨_, rfl, ?_⟩
  split
  · exact raise_endsBefore .e2 s
  split
  · exact raise_endsBefore .e4 s
  · exact endsBefore_of_bits_lt hb rfl rfl

theorem gzipHcrc_spends (crc : U16) : Spends (.gzipHcrc crc) := by
  intro s hb
  refine ⟨_, rfl, ?_⟩
  split
  · exact raise_endsBefore .e5 s
  · exact endsBefore_of_bits_lt hb rfl rfl

theorem checkTrailer_endsBefore (v : U32) {s : State} (hb : 0 < s.src.bits) :
    (checkTrailer v s).EndsBefore (40 * s.supply + 1) := by
  unfold checkTrailer
  split
  · exact raise_endsBefore .e17 s
  · exact endsBefore_of_bits_lt hb rfl rfl

theorem gzipIsize_spends (n : U32) : Spends (.gzipIsize n) := by
  intro s hb
  refine ⟨_, rfl, ?_⟩
  split
  · exact raise_endsBefore .e18 s
  · exact endsBefore_of_bits_lt hb rfl rfl

theorem blockInstr_spends (q : BitStream) : Spends (blockInstr q) := by
  intro s hb
  have hdrop : s.src.bits - 3 < s.src.bits := Nat.sub_lt hb (by decide)
  unfold blockInstr
  dsimp only
  split
  · exact ⟨_, rfl, endsBefore_of_bits_lt hdrop rfl rfl⟩
  · exact ⟨_, rfl, State.EndsBefore.stopForTrees (endsBefore_of_bits_lt hdrop rfl rfl)⟩
  · exact ⟨_, rfl, endsBefore_of_bits_lt hdrop rfl rfl⟩
  · exact ⟨_, rfl, endsBefore_of_bits_lt hdrop rfl rfl⟩

theorem storedLenNlen_spends (len nlen : U16) : Spends (.storedLenNlen len nlen) := by
  intro s hb
  refine ⟨_, rfl, ?_⟩
  split
  · exact raise_endsBefore .e7 s
  · exact State.EndsBefore.stopForTrees (endsBefore_of_bits_lt hb rfl rfl)

theorem dynCounts_spends (hlit hdist : BitVec 5) (hclen : BitVec 4) : Spends (.dynCounts hlit hdist hclen) := by
  intro s hb
  have hdrop : s.src.bits - 14 < s.src.bits := Nat.sub_lt hb (by decide)
  refine ⟨_, rfl, ?_⟩
  split
  · exact endsBefore_of_bits_lt hdrop rfl rfl
  · exact endsBefore_of_bits_lt hdrop rfl rfl

theorem dynCllen_spends (len : BitVec 3) : Spends (.dynCllen len) := fun _ hb =>
  ⟨_, rfl, endsBefore_of_bits_lt (Nat.sub_lt hb (by decide)) rfl rfl⟩

/-- Code lengths written after bits were dropped (42_blocks.md R257). -/
theorem pushLens_endsBefore (len : BitVec 4) (n : Nat) {s u : State} (hbits : u.src.bits < s.src.bits)
    (hinput : u.src.input = s.src.input) (hleft : u.left = s.left) :
    (pushLens len n u).EndsBefore (40 * s.supply + 1) := by
  obtain ⟨l, hl⟩ := pushLens_eq len n u
  rw [hl]
  exact endsBefore_of_bits_lt hbits hinput hleft

theorem repeatLens_endsBefore (len : BitVec 4) (cnt : Nat) {s u : State} (hbits : u.src.bits < s.src.bits)
    (hinput : u.src.input = s.src.input) (hleft : u.left = s.left) :
    (repeatLens len cnt u).EndsBefore (40 * s.supply + 1) := by
  unfold repeatLens
  split
  · exact endsBefore_of_bits_lt hbits hinput hleft
  · exact pushLens_endsBefore len cnt hbits hinput hleft

section

variable {cw : Codeword} (hcw : 0 < cw.len)
include hcw

theorem clLength_spends (len : BitVec 4) : Spends (.clLength cw len) := fun _ hb =>
  ⟨_, rfl, pushLens_endsBefore len 1 (Nat.sub_lt hb hcw) rfl rfl⟩

theorem clRepeatPrev_spends (r : BitVec 2) : Spends (.clRepeatPrev cw r) := by
  intro s hb
  have hdrop : s.src.bits - cw.len < s.src.bits := Nat.sub_lt hb hcw
  refine ⟨_, rfl, ?_⟩
  split
  · exact endsBefore_of_bits_lt hdrop rfl rfl
  · exact repeatLens_endsBefore _ _ ((Nat.sub_le _ 2).trans_lt hdrop) rfl rfl

theorem clZeroShort_spends (r : BitVec 3) : Spends (.clZeroShort cw r) := fun _ hb =>
  ⟨_, rfl, repeatLens_endsBefore 0 _ ((Nat.sub_le _ 3).trans_lt (Nat.sub_lt hb hcw)) rfl rfl⟩

theorem clZeroLong_spends (r : BitVec 7) : Spends (.clZeroLong cw r) := fun _ hb =>
  ⟨_, rfl, repeatLens_endsBefore 0 _ ((Nat.sub_le _ 7).trans_lt (Nat.sub_lt hb hcw)) rfl rfl⟩

end

theorem gzipExtra_keeps (data : List Byte) : Keeps (.gzipExtra data) :=
  keeps_of_supply_le fun _ => ⟨_, rfl, le_rfl⟩

theorem gzipName_keeps (data : List Byte) : Keeps (.gzipName data) :=
  keeps_of_supply_le fun s => ⟨_, rfl, by split <;> exact le_rfl⟩

theorem gzipComment_keeps (data : List Byte) : Keeps (.gzipComment data) :=
  keeps_of_supply_le fun s => ⟨_, rfl, by split <;> exact le_rfl⟩

theorem storedData_keeps (data : List Byte) : Keeps (.storedData data) :=
  keeps_of_supply_le fun s => ⟨_, rfl, by
    simp only [supply_eq, memWriteAll_src, memWriteAll_left]
    omega⟩

theorem literal_keeps (cw : Codeword) (v : Byte) : Keeps (.literal cw v) := fun s =>
  ⟨_, rfl, (litRule_endsBefore { s with length := v.toNat, mode := .lit }).mono
    (Nat.mul_le_mul_left 40 (Nat.le_succ s.supply))⟩

theorem lengthInstr_keeps (k : Fin 29) (cw : Codeword) (x : Nat) : Keeps (lengthInstr k cw x) :=
  keeps_of_supply_le fun s => ⟨_, exec_lengthInstr k cw x s, dropBits_supply_le (lengthExtra k) s⟩

theorem distanceInstr_keeps (k : Fin 30) (cw : Codeword) (x : Nat) : Keeps (distanceInstr k cw x) := fun s =>
  ⟨_, exec_distanceInstr k cw x s, (finishDistance_endsBefore _ (startDistance k s)).mono (by
    change 40 * s.supply + 2 ≤ _
    omega)⟩

/-! ### What the decoder finds -/

/-- An element found in a stream of `n` bits has taken bits of it, or has a held bit to spend. -/
def FetchSpends (n : Nat) : Fetched → Prop
  | .element i q => q.stream.length ≤ n ∧ 0 < q.bits ∧ Spends i ∨ q.stream.length < n ∧ Keeps i
  | .starved _ _ => True
  | .overflow => True

/-- Pulled bytes stay in the stream. -/
theorem pulled_stream_length {k : Nat} {q q' : BitStream} (h : BitStream.Pulled k q q') :
    q'.stream.length = q.stream.length := by
  have hle := h.le
  have hbits := h.bits
  rw [BitStream.stream_length, BitStream.stream_length, h.input, List.length_drop]
  omega

theorem decodeField_spends {m n : Nat} {f : BitStream → Instr} {q : BitStream} (hm : 0 < m)
    (hf : ∀ q, Spends (f q)) (hq : q.stream.length ≤ n) : FetchSpends n (decodeField m f q) := by
  obtain ⟨k, q', hd, hp, hle, -⟩ | ⟨q', hd, -⟩ | ⟨hd, -⟩ := decodeField_cases m f q <;> rw [hd]
  · exact .inl ⟨(pulled_stream_length hp).trans_le hq, hm.trans_le hle, hf q'⟩
  · trivial
  · trivial

theorem decodeRun_spends {data : List Byte} {f : List Byte → Instr} {q : BitStream} (hf : Keeps (f data))
    (hdata : q.input = [] → data = []) : FetchSpends q.stream.length (decodeRun data f q) := by
  unfold decodeRun
  split
  · trivial
  next hne =>
    have hne : data ≠ [] := by simpa using hne
    have hlength : 0 < data.length := List.length_pos_iff.2 hne
    have hinput : 0 < q.input.length := List.length_pos_iff.2 fun h => hne (hdata h)
    refine .inr ⟨?_, hf⟩
    simp only [BitStream.stream_length, BitStream.takeBytes_bits, BitStream.takeBytes_input, List.length_drop]
    omega

theorem decodeExtra_spends {e n : Nat} {f : Nat → Instr} {q : BitStream} (p : Pending) (hf : ∀ x, Keeps (f x))
    (hq : q.stream.length < n) : FetchSpends n (decodeExtra e p f q) := by
  obtain ⟨k, q', hd, hp, -⟩ | ⟨q', hd, -⟩ | ⟨hd, -⟩ := decodeExtra_cases e p f q <;> rw [hd]
  · exact .inr ⟨(pulled_stream_length hp).trans_lt hq, hf _⟩
  · trivial
  · trivial

theorem decodeClSymbol_spends {cw : Codeword} (e : ClEntry) {n : Nat} {q : BitStream} (hcw : 0 < cw.len)
    (hheld : cw.len ≤ q.bits) (hq : q.stream.length ≤ n) : FetchSpends n (decodeClSymbol cw e q) := by
  unfold decodeClSymbol
  split
  · exact .inl ⟨hq, hcw.trans_le hheld, clLength_spends hcw _⟩
  split
  · exact decodeField_spends (Nat.add_pos_left hcw 2) (fun _ => clRepeatPrev_spends hcw _) hq
  split
  · exact decodeField_spends (Nat.add_pos_left hcw 3) (fun _ => clZeroShort_spends hcw _) hq
  · exact decodeField_spends (Nat.add_pos_left hcw 7) (fun _ => clZeroLong_spends hcw _) hq

theorem decodeLlSymbol_spends (cw : Codeword) (e : LlEntry) {n : Nat} {q : BitStream} (hq : q.stream.length < n) :
    FetchSpends n (decodeLlSymbol cw e q) := by
  cases e with
  | lit v => exact .inr ⟨hq, literal_keeps cw v⟩
  | len k => exact decodeExtra_spends _ (lengthInstr_keeps k cw) hq
  | eob | invalid => exact .inr ⟨hq, keeps_of_supply_le fun _ => ⟨_, rfl, le_rfl⟩⟩

theorem decodeDistSymbol_spends (cw : Codeword) (e : DistEntry) {n : Nat} {q : BitStream}
    (hq : q.stream.length < n) : FetchSpends n (decodeDistSymbol cw e q) := by
  cases e with
  | dist k => exact decodeExtra_spends _ (distanceInstr_keeps k cw) hq
  | invalid => exact .inr ⟨hq, keeps_of_supply_le fun _ => ⟨_, rfl, le_rfl⟩⟩

/-- A codeword found is at least one bit, and dropping it uses that up (43_huffman.md R313). -/
theorem drop_found_stream_length {ε : Type} {c : Code ε} {k : Nat} {q q' : BitStream} {cw : Codeword} {e : ε}
    (hp : BitStream.Pulled k q q') (hheld : c.held q' = some (cw, e)) :
    (q'.drop cw.len).stream.length < q.stream.length := by
  obtain ⟨hpos, hle, -⟩ := Code.held_width hheld
  rw [← pulled_stream_length hp, BitStream.stream_length, BitStream.stream_length, BitStream.drop_bits,
    BitStream.drop_input]
  omega

theorem strzRun_nil_of_nil {input : List Byte} (h : input = []) : strzRun input = [] := by
  rw [h, strzRun]

/-- Every element the decoder finds uses up bits of the stream, or has one to spend. -/
theorem decode_spends (ctx : Context) (q : BitStream) : FetchSpends q.stream.length (decode ctx q) := by
  cases ctx with
  | head wrap => exact decodeField_spends (by decide) (headInstr_spends wrap) le_rfl
  | flags => exact decodeField_spends (by decide) (fun _ => gzipCmFlg_spends _ _) le_rfl
  | time | os | xlen | dictid =>
    exact decodeField_spends (by decide) (fun _ => spends_of_initBits fun _ => ⟨_, rfl, rfl, rfl⟩) le_rfl
  | hcrc => exact decodeField_spends (by decide) (fun _ => gzipHcrc_spends _) le_rfl
  | adler32 | crc32 =>
    exact decodeField_spends (by decide) (fun _ _ hb => ⟨_, rfl, checkTrailer_endsBefore _ hb⟩) le_rfl
  | isize => exact decodeField_spends (by decide) (fun _ => gzipIsize_spends _) le_rfl
  | blockHeader => exact decodeField_spends (by decide) blockInstr_spends le_rfl
  | storedLen =>
    refine decodeField_spends (by decide) (fun _ => storedLenNlen_spends _ _) ?_
    simp only [BitStream.stream_length, BitStream.byteBits, BitStream.drop_bits, BitStream.drop_input]
    omega
  | dynCounts => exact decodeField_spends (by decide) (fun _ => dynCounts_spends _ _ _) le_rfl
  | clLen => exact decodeField_spends (by decide) (fun _ => dynCllen_spends _) le_rfl
  | extra n => exact decodeRun_spends (gzipExtra_keeps _) fun h => by simp [h]
  | storedData n => exact decodeRun_spends (storedData_keeps _) fun h => by simp [h]
  | name => exact decodeRun_spends (gzipName_keeps _) strzRun_nil_of_nil
  | comment => exact decodeRun_spends (gzipComment_keeps _) strzRun_nil_of_nil
  | codeLengths c =>
    simp only [decode]
    obtain ⟨k, q', cw, e, hd, hp, hheld, -⟩ | ⟨q', hd, -⟩ | ⟨hd, -⟩ := decodePeek_cases c q <;> rw [hd]
    · obtain ⟨hpos, hle, -⟩ := Code.held_width hheld
      exact decodeClSymbol_spends e hpos hle (pulled_stream_length hp).le
    · trivial
    · trivial
  | litLen c =>
    simp only [decode]
    obtain ⟨k, q', cw, e, hd, hp, hheld, -⟩ | ⟨q', hd, -⟩ | ⟨hd, -⟩ := decodePeek_cases c q <;> rw [hd]
    · exact decodeLlSymbol_spends cw e (drop_found_stream_length hp hheld)
    · trivial
    · trivial
  | distance c =>
    simp only [decode]
    obtain ⟨k, q', cw, e, hd, hp, hheld, -⟩ | ⟨q', hd, -⟩ | ⟨hd, -⟩ := decodePeek_cases c q <;> rw [hd]
    · exact decodeDistSymbol_spends cw e (drop_found_stream_length hp hheld)
    · trivial
    · trivial

/-! ### The modes that read none -/

theorem buildClTable_endsBefore {s : State} (hm : s.mode = .lenlens) : (buildClTable s).EndsBefore s.fuel := by
  unfold buildClTable
  obtain ⟨l, hl⟩ := zeroClLens_eq ((List.range 19).drop s.ncnt) s
  rw [hl]
  dsimp only
  split
  · exact endsBefore_of_move .bad hm
  · exact endsBefore_of_move .codelens hm

theorem buildTables_endsBefore {s : State} (hm : s.mode = .codelens) : (buildTables s).EndsBefore s.fuel := by
  unfold buildTables
  split
  · exact endsBefore_of_move .bad hm
  split
  · exact endsBefore_of_move .bad hm
  dsimp only
  split
  · exact endsBefore_of_move .bad hm
  · exact State.EndsBefore.stopForTrees (endsBefore_of_move .len_ hm)

/-- Bytes pulled for an extra field are still to be used up. -/
theorem withSrc_supply {k : Nat} {s : State} {q : BitStream} (h : BitStream.Pulled k s.src q) :
    ({ s with src := q } : State).supply = s.supply :=
  congrArg (· + s.left) (pulled_stream_length h)

theorem resumeLength_endsBefore {s t : State} (hm : s.mode = .lenext) (h : resumeLength s = .next t) :
    t.EndsBefore s.fuel := by
  unfold resumeLength at h
  obtain ⟨k, q, hq, hp, -⟩ | ⟨q, hq, -⟩ | ⟨hq, -⟩ := s.src.need_cases s.extra <;> rw [hq] at h <;> cases h
  · exact endsBefore_of_move .dist hm
      (hsupply := (dropBits_supply_le s.extra { s with src := q }).trans_eq (withSrc_supply hp))
  · exact leave_endsBefore _ .ok _

theorem resumeDistance_endsBefore {s t : State} (hm : s.mode = .distext) (h : resumeDistance s = .next t) :
    t.EndsBefore s.fuel := by
  unfold resumeDistance at h
  obtain ⟨k, q, hq, hp, -⟩ | ⟨q, hq, -⟩ | ⟨hq, -⟩ := s.src.need_cases s.extra <;> rw [hq] at h <;> cases h
  · refine (finishDistance_endsBefore _ _).mono ?_
    rw [withSrc_supply hp, State.fuel, hm]
    exact Nat.le_succ _
  · exact leave_endsBefore _ .ok _

theorem dictRule_endsBefore {s : State} (hm : s.mode = .dict) : (dictRule s).EndsBefore s.fuel := by
  unfold dictRule
  split
  · exact endsBefore_of_move .type hm
  · exact leave_endsBefore _ .needDict s

theorem typeRule_endsBefore {s : State} (hm : s.mode = .type) : (typeRule s).EndsBefore s.fuel := by
  unfold typeRule
  split
  · exact leave_endsBefore _ .ok s
  · exact endsBefore_of_move .typedo hm

/-- A mode that moves by itself is nearer the end after the move. -/
theorem action_move_endsBefore {s t : State} (h : action s = .move (.next t)) : t.EndsBefore s.fuel := by
  unfold action at h
  cases hm : s.mode <;> simp only [hm] at h
  case lenext => exact resumeLength_endsBefore hm (Action.move.inj h)
  case distext => exact resumeDistance_endsBefore hm (Action.move.inj h)
  case copy =>
    split at h
    · cases h
      exact endsBefore_of_move .type hm
    split at h <;> cases h
    exact leave_endsBefore _ .ok s
  all_goals repeat' split at h
  all_goals cases h
  case head => exact endsBefore_of_move .typedo hm
  case exlen => exact endsBefore_of_move .extra hm
  case extra => exact endsBefore_of_move .name hm
  case name => exact endsBefore_of_move .comment hm
  case comment => exact endsBefore_of_move .hcrc hm
  case hcrc => exact endsBefore_of_move .type hm
  case typedo => exact endsBefore_of_move .check hm (hsupply := dropBits_supply_le _ s)
  case copy_ => exact endsBefore_of_move .copy hm
  case len_ => exact endsBefore_of_move .len hm
  case check => exact endsBefore_of_move .length hm
  case length => exact endsBefore_of_move .done hm
  case dict => exact dictRule_endsBefore hm
  case type => exact typeRule_endsBefore hm
  case lenlens => exact buildClTable_endsBefore hm
  case codelens => exact buildTables_endsBefore hm
  case matched => exact (matchRule_endsBefore s).mono (by rw [State.fuel, hm]; exact le_rfl)
  case lit => exact (litRule_endsBefore s).mono (Nat.le_add_right _ _)
  case done | bad | mem => exact leave_endsBefore _ _ s

/-! ### The steps -/

/-- BAD, MEM and DONE read nothing. -/
theorem modeRank_pos_of_read {s : State} {ctx : Context} (h : action s = .read ctx) : 0 < modeRank s.mode := by
  unfold action at h
  cases hm : s.mode <;> simp only [hm] at h
  case bad | mem | done => cases h
  all_goals decide

/-- Each step of a call ends it or is nearer its end. -/
theorem step_endsBefore {s t : State} (hr : s.running = true) (h : step s = .next t) : t.EndsBefore s.fuel := by
  cases step_cases h with
  | idle hr' | command _ _ hr' => rw [hr] at hr'; cases hr'
  | element ctx i q _ ha hd ht =>
    have hrank := modeRank_pos_of_read ha
    have hfetch := decode_spends ctx s.src
    rw [hd] at hfetch
    obtain ⟨hle, hb, hspends⟩ | ⟨hlt, hkeeps⟩ := hfetch
    · obtain ⟨t', ht', hends⟩ := hspends { s with src := q } hb
      cases ht'.symm.trans ht
      refine hends.mono ?_
      have hsupply : ({ s with src := q } : State).supply ≤ s.supply := Nat.add_le_add_right hle s.left
      unfold State.fuel
      omega
    · obtain ⟨t', ht', hends⟩ := hkeeps { s with src := q }
      cases ht'.symm.trans ht
      refine hends.mono ?_
      have hsupply : ({ s with src := q } : State).supply < s.supply := Nat.add_lt_add_right hlt s.left
      unfold State.fuel
      omega
  | starved ctx p q _ _ _ ht =>
    intro hrt
    rw [ht, (starve_fields p q s).1] at hrt
    cases hrt
  | move _ ha => exact action_move_endsBefore ha

/-- A call in good order ends within its fuel. -/
theorem runSteps_ends {n : Nat} {s : State} (h : DecodeOk s) (hr : s.running = true) (hn : s.fuel < n) :
    ∃ m t, m ≤ n ∧ runSteps m s = some t ∧ t.running = false := by
  induction n generalizing s with
  | zero => omega
  | succ n ih =>
    obtain ⟨t, ht⟩ := stepCall_next h
    have hstep : step s = .next t := by simpa [step, hr] using ht
    cases hrt : t.running with
    | false => exact ⟨1, t, Nat.succ_le_succ (Nat.zero_le n), runSteps_of_step hstep 0, hrt⟩
    | true =>
      have hfuel := step_endsBefore hr hstep hrt
      obtain ⟨m, u, hm, hu, hend⟩ := ih (decodeBoundsKept s t h hstep) hrt (by omega)
      exact ⟨m + 1, u, Nat.succ_le_succ hm, (runSteps_of_step hstep m).trans hu, hend⟩

/-- Settles O54: the fuel is below the bound, and every step of the call lowers it. -/
theorem everyCallEnds : Obligations.EveryCallEnds := by
  intro s h hr
  refine runSteps_ends h.decode hr ?_
  have := modeRank_le s.mode
  rw [State.fuel, supply_eq]
  omega

end Sys2Proof.Machine
end

section
/-! The terminal modes (41_wrapper.md R207, 60_exceptions.md R483, R484, R490, R492): MEM is entered by a failed allocation only, and DONE, BAD and MEM are left by RESET and INIT only. -/

namespace Sys2Proof.Machine

/-! ### Entering MEM -/

/-- No mode rule enters MEM while the call goes on (60_exceptions.md R484). -/
theorem CallFrame.mode_ne_mem {s u : State} (h : CallFrame s u) (hm : s.mode ≠ .mem) : u.mode ≠ .mem := by
  obtain ⟨hbad, -⟩ | ⟨-, hsame | ⟨-, hmoved⟩⟩ := h.error
  · simp [hbad]
  · rwa [hsame]
  · exact hmoved

/-- LEAVE enters MEM by a failed allocation only (46_host.md R450). -/
theorem leave_mode_of_no_failure {s : State} (ha : s.allocMayFail = false) (r : Status) :
    (leave r s).mode = s.mode :=
  (leave_mode r s).resolve_right fun h => by simp [ha] at h

/-- WindowUpdate enters MEM by a failed allocation only (45_window.md R402). -/
theorem windowUpdate_mode_of_no_failure {s : State} (ha : s.allocMayFail = false) (data : List Byte) :
    (windowUpdate data s).mode = s.mode := by
  obtain ⟨-, -, -, -, hfail⟩ | ⟨-, hmode, -⟩ := windowUpdate_cases data s
  · simp [ha] at hfail
  · exact hmode

theorem CallStep.mode_ne_mem {s t : State} (h : CallStep s t) (ha : s.allocMayFail = false) (hm : s.mode ≠ .mem) :
    t.mode ≠ .mem := by
  cases h with
  | goesOn h => exact h.mode_ne_mem hm
  | leaves u r h ht =>
    rw [ht, leave_mode_of_no_failure (h.allocMayFail.trans ha)]
    exact h.mode_ne_mem hm

theorem CommandStep.mode_ne_mem {s t : State} (h : CommandStep s t) (ha : s.allocMayFail = false)
    (hm : s.mode ≠ .mem) : t.mode ≠ .mem := by
  cases h with
  | init _ _ _ _ ht | resetKeep ht | resetFull ht => exact ht ▸ nofun
  | refused _ ht | header _ ht | teardown ht => exact ht ▸ hm
  | inflate input availOut flush _ ht =>
    subst ht
    exact mt (startCall_mode (m := .mem) nofun nofun input availOut flush s).1 hm
  | dictionary dict _ _ _ ht =>
    subst ht
    change (windowUpdate dict s).mode ≠ .mem
    rwa [windowUpdate_mode_of_no_failure ha]

/-- Settles O36: only an allocation enters MEM, and no step changes whether one may fail. -/
theorem memUnreachableByDefault : Obligations.MemUnreachableByDefault := by
  intro s _ ha hm hs
  refine step_keeps (I := fun s => s.mode ≠ .mem ∧ s.allocMayFail = false) (fun _ _ h => h) ?_ ?_ ⟨hm, ha⟩ hs
  · intro s t ⟨hm, ha⟩ hr hs
    have hcall := step_running hr hs
    obtain ⟨-, -, -, halloc⟩ := hcall.keeps
    exact ⟨hcall.mode_ne_mem ha hm, halloc.trans ha⟩
  · intro s t ⟨hm, ha⟩ _ hcommand
    exact ⟨hcommand.mode_ne_mem ha hm, hcommand.allocMayFail.trans ha⟩

/-! ### Leaving DONE, BAD and MEM -/

/-- With a call in progress a terminal mode leaves the call (41_wrapper.md R207, 60_exceptions.md R482, R484). -/
theorem step_of_terminal_mode {s t : State} (hr : s.running = true)
    (hm : s.mode = .done ∨ s.mode = .bad ∨ s.mode = .mem) (h : step s = .next t) : ∃ r, t = leave r s := by
  obtain hdone | herror := hm
  · have hstep : step s = .next (leave .streamEnd s) := by simp [step, hr, stepCall, action, hdone]
    rw [hstep] at h
    cases h
    exact ⟨_, rfl⟩
  · exact step_of_error_mode hr herror h

/-- In a terminal mode a command other than RESET and INIT keeps the mode and the message (60_exceptions.md R490). -/
theorem exec_command_of_terminal_mode {c : Command} {s t : State}
    (hm : s.mode = .done ∨ s.mode = .bad ∨ s.mode = .mem) (h : exec (decodeCommand c) s = .next t) :
    (t.mode = s.mode ∧ t.msg = s.msg) ∨ (∃ keep, c = .reset keep) ∨ ∃ w, c = .init w := by
  cases c with
  | init w => exact .inr (.inr ⟨w, rfl⟩)
  | reset keep => exact .inr (.inl ⟨keep, rfl⟩)
  | inflate input availOut code =>
    left
    injection h with h
    subst h
    split
    · exact ⟨rfl, rfl⟩
    split
    · exact ⟨rfl, rfl⟩
    · have hquiet : s.mode ≠ .type ∧ s.mode ≠ .typedo := by obtain hm | hm | hm := hm <;> simp [hm]
      exact ⟨(startCall_mode hquiet.1 hquiet.2 _ _ _ s).2 rfl, rfl⟩
  | setDictionary dict =>
    left
    injection h with h
    subst h
    have hdict : s.mode ≠ .dict := by obtain hm | hm | hm := hm <;> simp [hm]
    split
    · exact ⟨rfl, rfl⟩
    · next hvalid => exact absurd (.inr hdict) hvalid
  | getHeader | teardown =>
    left
    injection h with h
    subst h
    split <;> exact ⟨rfl, rfl⟩

/-- Settles O43: a call in progress leaves from a terminal mode, and the commands but RESET and INIT keep it. -/
theorem terminalModesAreLeftOnlyByReset : Obligations.TerminalModesAreLeftOnlyByReset := by
  intro s t hm hs
  cases hr : s.running with
  | true =>
    obtain ⟨r, rfl⟩ := step_of_terminal_mode hr hm hs
    exact .inl ⟨leave_mode r s, leave_msg r s⟩
  | false =>
    cases step_cases hs with
    | idle _ _ ht => exact .inl (ht ▸ ⟨.inl rfl, rfl⟩)
    | command c rest _ hc _ ht =>
      obtain ⟨hmode, hmsg⟩ | ⟨keep, rfl⟩ | ⟨w, rfl⟩ :=
        exec_command_of_terminal_mode (s := { s with commands := rest }) hm ht
      · exact .inl ⟨.inl hmode, hmsg⟩
      · exact .inr ⟨rfl, rest, .inl ⟨keep, hc⟩⟩
      · exact .inr ⟨rfl, rest, .inr ⟨w, hc⟩⟩
    | element _ _ _ hr' | starved _ _ _ hr' | move hr' => rw [hr] at hr'; cases hr'

end Sys2Proof.Machine
end

section
/-! RESET (46_host.md R443, 70_reset_and_hazards.md R531, R532). -/

namespace Sys2Proof.Machine

/-- On a valid instance RESET answers OK over RESET_KEEP or RESET_FULL (46_host.md R443). -/
theorem exec_reset_of_valid {s : State} (hvalid : s.valid = true) (keep : Bool) :
    exec (.reset keep) s = .next (answer .ok (if keep then resetKeep s else resetFull s)) := by
  rw [exec, execReset, if_neg (by simp [hvalid])]

/-- Settles O38: RESET_KEEP writes the values of R52, and RESET_FULL discards the window first. -/
theorem resetResult : Obligations.ResetResult := by
  intro keep s hvalid
  rw [exec_reset_of_valid hvalid keep]
  cases keep with
  | true => rfl
  | false => rfl

end Sys2Proof.Machine
end
